-- ==== Sys2Proof/Word.lean ====
section
/-! DEFINITION. The value types of the DOC4 core (`00_scope.md` R1, R2): every value is an unsigned bit vector,
bit 0 the least significant, and a tuple or permutation has four elements, element 0 first. -/

namespace Sys2Proof

/-- A tuple element, a threshold, a delta or a magnitude (R2; parameter `W` = 32 of `00_scope.md` §3). -/
abbrev Word := BitVec 32

/-- A packed permutation, a header byte, a class operand or a status word (R11, R12). -/
abbrev Byte := BitVec 8

/-- An element index `0..3`, the `u2` of the rules (R2). -/
abbrev Index := BitVec 2

/-- An order-code, the `u5` of the rules (R2, R31; `CODE_BITS` = 5). -/
abbrev OrderCode := BitVec 5

/-- An offset-class, the `u3` of the rules (R2, R42; `CLASS_BITS` = 3). -/
abbrev OffsetClass := BitVec 3

/-- The operation select `OP` (R35). -/
abbrev OpCode := BitVec 4

/-- Four elements in order, element 0 first (R1, R6; parameter `N` = 4). -/
structure Quad (α : Type) where
  e0 : α
  e1 : α
  e2 : α
  e3 : α
  deriving DecidableEq, Repr

/-- A tuple of four unsigned 32-bit values (glossary "Tuple"). -/
abbrev Tuple := Quad Word

/-- A 4-element array of indices; it is a permutation when `isPerm` holds (R51). -/
abbrev Perm := Quad Index

end Sys2Proof
end

