-- ==== Sys2Proof/Syntax.lean ====
section
/-! DEFINITION. The operations of the core, one constructor per row of `opcode_table.json` (`30_encoding.md` R36, R37).
A request word is the 4-bit field `OP` alone (R35), so no constructor carries an operand: the operands travel on the
request ports (R11) and are read there by the meanings. -/

namespace Sys2Proof

/-- The sixteen operation selections of R36. -/
inductive Instr where
  /-- `THR`, read a threshold (R49). -/
  | thr
  /-- `CLS`, classify a value (R50). -/
  | cls
  /-- `SORT`, sort a tuple and return its permutation (R59). -/
  | sort
  /-- `PAPPLY`, apply a permutation to a tuple (R60). -/
  | papply
  /-- `PENC`, encode a permutation (R69). -/
  | penc
  /-- `PDEC`, decode an order-code (R70). -/
  | pdec
  /-- `PINV`, inverse permutation from an order-code (R71). -/
  | pinv
  /-- `DFWD`, forward delta transform (R77). -/
  | dfwd
  /-- `DINV`, inverse delta transform (R78). -/
  | dinv
  /-- `HPACK`, pack a header byte (R79). -/
  | hpack
  /-- `HUNPK`, split a header byte (R80). -/
  | hunpk
  /-- `ENC`, encode one tuple (R83). -/
  | enc
  /-- `DEC`, decode one block (R84). -/
  | dec
  /-- Reserved `OP` `0xD` (R37). -/
  | reservedD
  /-- Reserved `OP` `0xE` (R37). -/
  | reservedE
  /-- Reserved `OP` `0xF` (R37). -/
  | reservedF
  deriving DecidableEq, Repr

end Sys2Proof
end

