-- ==== Sys2Proof/Decode.lean ====
section
/-! DEFINITION. The opcode map (`30_encoding.md` R35 to R38): from the 4-bit field `OP` to the operation and back, and from
bytes that carry a request word. -/

namespace Sys2Proof

/-- Why a run of bytes holds no request word. -/
inductive DecodeError where
  /-- There is no byte to read `OP` from. Raised by `decode`; safe, nothing is run. -/
  | noRequestWord
  deriving DecidableEq, Repr

/-- R36's opcode map, with R37's reserved values: total on the sixteen values of `OP`. The `OP` field decodes the same
way in every request (R38), so nothing but `OP` is consulted. -/
def decodeOp (op : OpCode) : Instr :=
  if op = 0x0#4 then .thr
  else if op = 0x1#4 then .cls
  else if op = 0x2#4 then .sort
  else if op = 0x3#4 then .papply
  else if op = 0x4#4 then .penc
  else if op = 0x5#4 then .pdec
  else if op = 0x6#4 then .pinv
  else if op = 0x7#4 then .dfwd
  else if op = 0x8#4 then .dinv
  else if op = 0x9#4 then .hpack
  else if op = 0xA#4 then .hunpk
  else if op = 0xB#4 then .enc
  else if op = 0xC#4 then .dec
  else if op = 0xD#4 then .reservedD
  else if op = 0xE#4 then .reservedE
  else .reservedF

/-- The `OP` value on a byte that carries a request word: bits 3:0 (R35). Bits 7:4 have no wire to travel on and are
dropped (DESIGN CHOICE, log 6; unsafe: a transport that rejects such a byte would differ). -/
def opOfByte (b : Byte) : OpCode := b.extractLsb' 0 4

/-- The request word at the front of a run of bytes, and the bytes after it: one byte a word (log 6). -/
def decode : List Byte → Except DecodeError (Instr × List Byte)
  | [] => .error .noRequestWord
  | b :: rest => .ok (decodeOp (opOfByte b), rest)

/-- The `OP` value of an operation, from R36's table. -/
def encodeOp : Instr → OpCode
  | .thr => 0x0
  | .cls => 0x1
  | .sort => 0x2
  | .papply => 0x3
  | .penc => 0x4
  | .pdec => 0x5
  | .pinv => 0x6
  | .dfwd => 0x7
  | .dinv => 0x8
  | .hpack => 0x9
  | .hunpk => 0xA
  | .enc => 0xB
  | .dec => 0xC
  | .reservedD => 0xD
  | .reservedE => 0xE
  | .reservedF => 0xF

/-- The bytes of an operation's request word: `OP` in bits 3:0 of one byte, bits 7:4 zero. -/
def encode (i : Instr) : List Byte := [(encodeOp i).setWidth 8]

/-- The `k` bytes of a number, the least significant first. -/
def wordBytes (w : Nat) : Nat → List Byte
  | 0 => []
  | k + 1 => BitVec.ofNat 8 w :: wordBytes (w / 256) k

/-- The host's question: the operation read from a word of `nbits` bits `w`. The bits at `nbits` and above are 0. -/
def decodeTableWord (nbits w : Nat) : Option Instr :=
  match decode (wordBytes (BitVec.ofNat nbits w).toNat ((nbits + 7) / 8)) with
  | .ok (i, _) => some i
  | .error _ => none

end Sys2Proof
end

