-- ==== Sys2Proof/Config.lean ====
section
/-! DEFINITION. The build-time parameter of the core: the threshold table `THR` (`10_state.md` R16,
`40_offset_class.md` R44, R45) and its default contents NIB1. -/

namespace Sys2Proof

/-- The threshold table: 8 entries of 32 bits, indexed by offset-class (R16). Its contents are a parameter of the
model, fixed when the core is built (D7, D24); `State.thr` holds the table a machine was built with. -/
structure ThrTable where
  t0 : Word
  t1 : Word
  t2 : Word
  t3 : Word
  t4 : Word
  t5 : Word
  t6 : Word
  t7 : Word
  deriving DecidableEq, Repr

/-- The default table `NIB1`, `THR[k] = 2^(4k) - 1` (R45). -/
def Config.nib1 : ThrTable :=
  { t0 := 0x00000000, t1 := 0x0000000F, t2 := 0x000000FF, t3 := 0x00000FFF
    t4 := 0x0000FFFF, t5 := 0x000FFFFF, t6 := 0x00FFFFFF, t7 := 0x0FFFFFFF }

end Sys2Proof
end

