-- ==== Sys2Proof/Machine/State.lean ====
section
/-! DEFINITION. The state of the machine (`10_state.md`): the request ports (R11), the response ports (R12) and the threshold
table (R16). The core keeps nothing from one request to the next (R8): no register (R9), no program counter (R10), no memory
(R20), no mode or interrupt state (R19). -/

namespace Sys2Proof.Machine

/-- The request ports (R11), "sampled together". -/
structure Request where
  /-- `OP`, the operation select. -/
  op : OpCode
  /-- `VA[0..3]`, the vector operand. -/
  va : Tuple
  /-- `PA`, the permutation operand, packed as in R32. -/
  pa : Byte
  /-- `BA`, a header byte or an order-code in `BA[4:0]`. -/
  ba : Byte
  /-- `BB`, an offset-class in `BB[2:0]`. -/
  bb : Byte
  deriving DecidableEq, Repr

/-- The response ports (R12). -/
structure Response where
  /-- `VZ[0..3]`, the vector result. -/
  vz : Tuple
  /-- `PZ`, the permutation result, packed as in R32. -/
  pz : Byte
  /-- `BZ`, a header byte, or an order-code in bits 4:0. -/
  bz : Byte
  /-- `CZ`, an offset-class in bits 2:0. -/
  cz : Byte
  /-- `ST`, the status word (R14). -/
  st : Byte
  deriving DecidableEq, Repr

/-- What stands between the two sets of ports: the MODEL's own field (DESIGN CHOICE, log 4), for what R11, R19, R91 and R107 say of
requests presented and responses taken without giving a signal. -/
inductive Phase where
  /-- No request has been answered since reset and none is presented: the response ports are unspecified (R19). -/
  | beforeFirst
  /-- The host presents the request on the request ports; it is not answered yet. -/
  | presented
  /-- The response ports hold the response to the request on the request ports. -/
  | answered
  deriving DecidableEq, Repr

/-- The state of one core. -/
structure State where
  /-- The request ports (R11). -/
  req : Request
  /-- The response ports (R12). -/
  resp : Response
  /-- The threshold table the core was built with (R16); no operation writes it (log 1). -/
  thr : ThrTable
  /-- Whether a request is presented or answered (log 4). -/
  phase : Phase
  deriving DecidableEq, Repr

/-- Why the machine stops with a fault. -/
inductive Fault where
  /-- An internally computed (min-index, max-index) pair falls outside the twelve branches of R55 (R54, R93: "a model
  treats it as a fault, not as data"). Raised by the meanings of SORT and ENC. Safe: R93 says no conforming input
  reaches it. -/
  | invariantViolation
  deriving DecidableEq, Repr

/-- Why the machine gives a request no meaning. -/
inductive Refusal where
  /-- An operation that has no meaning yet. Raised by an arm of `exec`; safe. No arm raises it now. -/
  | notModelled (mnemonic : String)
  /-- The machine's threshold table breaks R44 ("the model refuses it"). Raised by `step` before any request runs; safe:
  no core the spec admits has such a table. -/
  | illegalThresholdTable
  deriving DecidableEq, Repr

/-- The machine right after reset (R19, R103): the table is its constant contents, by default NIB1 (R45), and no request
has been presented. The spec gives the ports no value before the first response; the zeros are the model's (DESIGN CHOICE,
log 2 for the response ports, log 3 for the request ports; unsafe, so no statement rests on them). -/
def State.reset : State :=
  { req := { op := 0, va := ⟨0, 0, 0, 0⟩, pa := 0, ba := 0, bb := 0 }
    resp := { vz := ⟨0, 0, 0, 0⟩, pz := 0, bz := 0, cz := 0, st := 0 }
    thr := Config.nib1
    phase := .beforeFirst }

end Sys2Proof.Machine
end

