-- ==== Sys2Proof/Machine/Flags.lean ====
section
/-! DEFINITION. The arithmetic primitives with their carry and borrow (`00_scope.md` R3), and the status word `ST` (`10_state.md` R14,
`60_exceptions.md` R89). -/

namespace Sys2Proof.Machine

/-- `add32(x, y) = (x + y) mod 2^32` (R3). -/
def add32 (x y : Word) : Word := x + y

/-- `carry(x, y)`: the exact sum reaches `2^32` (R3). -/
def carry (x y : Word) : Bool := decide (2 ^ 32 ≤ x.toNat + y.toNat)

/-- `sub32(x, y) = (x - y) mod 2^32` (R3). -/
def sub32 (x y : Word) : Word := x - y

/-- `borrow(x, y)`: `x < y`, unsigned (R3, R4). -/
def borrow (x y : Word) : Bool := decide (x.toNat < y.toNat)

/-- The named bits of `ST` (R14), which are the error causes of R89. -/
inductive StatusBit where
  /-- Bit 0: the order-code operand is one of the 8 invalid codes. -/
  | codeErr
  /-- Bit 1: the permutation operand is not a permutation. -/
  | permErr
  /-- Bit 2: a sum carried or a delta borrowed. -/
  | wrap
  /-- Bit 3: `OP` is a reserved opcode. -/
  | illop
  /-- Bit 4: implementation-invariant violation; no operation sets it, it reads 0. -/
  | invar
  deriving DecidableEq, Repr

/-- The bit number of a status bit (R14). -/
def statusPos : StatusBit → Nat
  | .codeErr => 0
  | .permErr => 1
  | .wrap => 2
  | .illop => 3
  | .invar => 4

/-- The status bit of a status word. -/
def statusOf (st : Byte) (b : StatusBit) : Bool := st.getLsbD (statusPos b)

/-- `if cond then raise Status(b)` (R5): a report, not a trap. The bit is set when the cause holds and the other bits
stay, so every cause that holds is reported in the one response (R92). -/
def raise (b : StatusBit) (cond : Bool) (st : Byte) : Byte :=
  if cond then st ||| (1#8 <<< statusPos b) else st

end Sys2Proof.Machine
end

