-- ==== Sys2Proof/Machine/Operands.lean ====
section
/-! DEFINITION. The operand and result formats of `30_encoding.md` (R31 to R34), the element access of a tuple (R1), and the Reads and
Writes columns of R36. -/

namespace Sys2Proof

/-- `v[i]` applied to a tuple or permutation: element `i`, element 0 first (R1). -/
def Quad.get {α : Type} (q : Quad α) (i : Index) : α :=
  if i = 0#2 then q.e0 else if i = 1#2 then q.e1 else if i = 2#2 then q.e2 else q.e3

/-- `v[i] <- x`: the other elements stay. -/
def Quad.set {α : Type} (q : Quad α) (i : Index) (x : α) : Quad α :=
  if i = 0#2 then { q with e0 := x }
  else if i = 1#2 then { q with e1 := x }
  else if i = 2#2 then { q with e2 := x }
  else { q with e3 := x }

/-- The function applied to each element. -/
def Quad.map {α β : Type} (f : α → β) (q : Quad α) : Quad β :=
  ⟨f q.e0, f q.e1, f q.e2, f q.e3⟩

end Sys2Proof

namespace Sys2Proof.Machine

/-- A scalar operand occupies `VA[0]`; `VA[1..3]` are ignored (R34). -/
def scalarOperand (r : Request) : Word := r.va.e0

/-- A vector operand: element `i` on `VA[i]` (R34). -/
def vectorOperand (r : Request) : Tuple := r.va

/-- An order-code operand is `BA[4:0]`; `BA[7:5]` are ignored (R33). -/
def codeOperand (r : Request) : OrderCode := r.ba.extractLsb' 0 5

/-- A header operand is all of `BA[7:0]` (R33). -/
def headerOperand (r : Request) : Byte := r.ba

/-- An offset-class operand is `BB[2:0]`; `BB[7:3]` are ignored (R33). -/
def classOperand (r : Request) : OffsetClass := r.bb.extractLsb' 0 3

/-- The permutation on a port: `p_i` in bits `[2i+1:2i]` (R32). -/
def unpackPerm (b : Byte) : Perm :=
  ⟨b.extractLsb' 0 2, b.extractLsb' 2 2, b.extractLsb' 4 2, b.extractLsb' 6 2⟩

/-- `p0 | (p1 << 2) | (p2 << 4) | (p3 << 6)` (R32). -/
def packPerm (p : Perm) : Byte := p.e3 ++ p.e2 ++ p.e1 ++ p.e0

/-- A permutation operand, from `PA` (R32). -/
def permOperand (r : Request) : Perm := unpackPerm r.pa

/-- Field `a` of an order-code, bits 4:3 (R31). -/
def codeA (code : OrderCode) : Index := code.extractLsb' 3 2

/-- Field `b` of an order-code, bits 2:1 (R31). -/
def codeB (code : OrderCode) : Index := code.extractLsb' 1 2

/-- Field `c` of an order-code, bit 0 (R31). -/
def codeC (code : OrderCode) : BitVec 1 := code.extractLsb' 0 1

/-- `(a << 3) | (b << 1) | c` (R31). -/
def packCode (a b : Index) (c : BitVec 1) : OrderCode := a ++ b ++ c

/-- An order-code result goes to `BZ` as `zext_8(code)` (R33). -/
def codeResult (code : OrderCode) : Byte := code.setWidth 8

/-- A class result goes to `CZ` as `zext_8(class)` (R33). -/
def classResult (cls : OffsetClass) : Byte := cls.setWidth 8

/-- A scalar result occupies `VZ[0]` (R34); `VZ[1..3]` are unwritten and 0 (R13). -/
def scalarResult (n : Word) : Tuple := ⟨n, 0, 0, 0⟩

/-- Bitwise AND of two requests, port by port. -/
def Request.masked (r m : Request) : Request :=
  { op := r.op &&& m.op
    va := ⟨r.va.e0 &&& m.va.e0, r.va.e1 &&& m.va.e1, r.va.e2 &&& m.va.e2, r.va.e3 &&& m.va.e3⟩
    pa := r.pa &&& m.pa
    ba := r.ba &&& m.ba
    bb := r.bb &&& m.bb }

/-- Bitwise AND of two responses, port by port. -/
def Response.masked (r m : Response) : Response :=
  { vz := ⟨r.vz.e0 &&& m.vz.e0, r.vz.e1 &&& m.vz.e1, r.vz.e2 &&& m.vz.e2, r.vz.e3 &&& m.vz.e3⟩
    pz := r.pz &&& m.pz
    bz := r.bz &&& m.bz
    cz := r.cz &&& m.cz
    st := r.st &&& m.st }

/-- No operand bit at all; `OP` itself is read by every request (R35). -/
def readNothing : Request := { op := 0xF, va := ⟨0, 0, 0, 0⟩, pa := 0, ba := 0, bb := 0 }

/-- All 32 bits of each of the four elements. -/
def wholeVector : Tuple := ⟨0xFFFFFFFF, 0xFFFFFFFF, 0xFFFFFFFF, 0xFFFFFFFF⟩

/-- The operand bits an operation reads: R36's Reads column, with the widths of R33 and R34. -/
def readMask : Instr → Request
  | .thr => { readNothing with bb := 0x07 }
  | .cls => { readNothing with va := ⟨0xFFFFFFFF, 0, 0, 0⟩ }
  | .sort => { readNothing with va := wholeVector }
  | .papply => { readNothing with va := wholeVector, pa := 0xFF }
  | .penc => { readNothing with pa := 0xFF }
  | .pdec => { readNothing with ba := 0x1F }
  | .pinv => { readNothing with ba := 0x1F }
  | .dfwd => { readNothing with va := wholeVector }
  | .dinv => { readNothing with va := wholeVector, bb := 0x07 }
  | .hpack => { readNothing with ba := 0x1F, bb := 0x07 }
  | .hunpk => { readNothing with ba := 0xFF }
  | .enc => { readNothing with va := wholeVector }
  | .dec => { readNothing with va := wholeVector, ba := 0xFF }
  | .reservedD => readNothing
  | .reservedE => readNothing
  | .reservedF => readNothing

/-- No output bit at all. -/
def writeNothing : Response := { vz := ⟨0, 0, 0, 0⟩, pz := 0, bz := 0, cz := 0, st := 0 }

/-- The output bits an operation may set: R36's Writes column, with the result widths of R33 and the status bits of R14. -/
def writeMask : Instr → Response
  | .thr => { writeNothing with vz := ⟨0xFFFFFFFF, 0, 0, 0⟩ }
  | .cls => { writeNothing with cz := 0x07 }
  | .sort => { writeNothing with vz := wholeVector, pz := 0xFF }
  | .papply => { writeNothing with vz := wholeVector, st := 0x02 }
  | .penc => { writeNothing with bz := 0x1F, st := 0x02 }
  | .pdec => { writeNothing with pz := 0xFF, st := 0x01 }
  | .pinv => { writeNothing with pz := 0xFF, st := 0x01 }
  | .dfwd => { writeNothing with vz := wholeVector, cz := 0x07, st := 0x04 }
  | .dinv => { writeNothing with vz := wholeVector, st := 0x04 }
  | .hpack => { writeNothing with bz := 0xFF, st := 0x01 }
  | .hunpk => { writeNothing with bz := 0x1F, cz := 0x07, st := 0x01 }
  | .enc => { writeNothing with vz := wholeVector, pz := 0xFF, bz := 0xFF, cz := 0x07 }
  | .dec => { writeNothing with vz := wholeVector, pz := 0xFF, bz := 0x1F, cz := 0x07, st := 0x05 }
  | .reservedD => { writeNothing with st := 0x08 }
  | .reservedE => { writeNothing with st := 0x08 }
  | .reservedF => { writeNothing with st := 0x08 }

end Sys2Proof.Machine
end

