-- ==== Sys2Proof/Machine/Ops.lean ====
section
/-! DEFINITION. What can happen at the core's ports: the host presents a request (R11), the core answers it (R12, R13), the host reads the
response (R19, R29). Errors are status bits of the response and never trap (R91), so there is no exception entry and no return
(R95); the one stop the spec names is the invariant violation of R93. -/

namespace Sys2Proof.Machine

/-- The response before an operation's rule has written anything: "every output port that an operation's rule does not
name is 0", "every bit of `ST` that the rule does not set is 0" (R13). -/
def unwritten : Response := { vz := ⟨0, 0, 0, 0⟩, pz := 0, bz := 0, cz := 0, st := 0 }

/-- The core answers: the response ports take the whole response as one unit (R12, R29). The request ports are the
host's, the table is constant (R16). -/
def State.answer (s : State) (r : Response) : State := { s with resp := r, phase := .answered }

/-- The host presents a request: all request ports are sampled together (R11). The response ports are not touched. A request that
is presented and not yet answered is replaced, and gets no response: R107 leaves the handshake to the interface (DESIGN CHOICE,
log 19; unsafe). -/
def State.present (s : State) (r : Request) : State := { s with req := r, phase := .presented }

/-- What the host may observe: the outputs, only as the response to a request (R19). -/
def State.response? (s : State) : Option Response :=
  match s.phase with
  | .answered => some s.resp
  | .beforeFirst => none
  | .presented => none

/-- The request word on the `OP` port (R35). -/
def State.fetchOp (s : State) : OpCode := s.req.op

/-- A core built with another threshold table (R16, D24). -/
def State.withTable (s : State) (T : ThrTable) : State := { s with thr := T }

/-- An answer that holds only where the sorter's selector is one of the twelve enumerated branches (R54); outside them
the source's kind (2) error, which "a model treats as a fault, not as data" (R93). -/
def State.answerIfEnumerated (s : State) (enumerated : Bool) (r : Response) : Host.Outcome State Fault Refusal :=
  if enumerated then .next (s.answer r) else .fault .invariantViolation

end Sys2Proof.Machine
end

