-- ==== Sys2Proof/Machine/OffsetClass.lean ====
section
/-! DEFINITION. The offset-class table and classifier, and the operations THR and CLS (`40_offset_class.md`). -/

namespace Sys2Proof.Machine

/-- `thr(k) = THR[k]` (R43). -/
def thr (T : ThrTable) (k : OffsetClass) : Word :=
  if k = 0#3 then T.t0 else if k = 1#3 then T.t1 else if k = 2#3 then T.t2 else if k = 3#3 then T.t3
  else if k = 4#3 then T.t4 else if k = 5#3 then T.t5 else if k = 6#3 then T.t6 else T.t7

/-- The classes from 7 downward (R46). -/
def classesDown : List OffsetClass := [7, 6, 5, 4, 3, 2, 1, 0]

/-- `bestClass(n)`: the scan "from the largest class downward and returning the first match, defaulting to class 0" (R46). -/
def bestClass (T : ThrTable) (n : Word) : OffsetClass :=
  (classesDown.find? (fun k => decide (thr T k ≤ n))).getD 0

/-- `THR`, read a threshold (R49). -/
def execThr (s : State) : Host.Outcome State Fault Refusal :=
  let k := classOperand s.req
  .next (s.answer { unwritten with vz := scalarResult (thr s.thr k) })

/-- `CLS`, classify a value (R50). -/
def execCls (s : State) : Host.Outcome State Fault Refusal :=
  let n := scalarOperand s.req
  .next (s.answer { unwritten with cz := classResult (bestClass s.thr n) })

end Sys2Proof.Machine
end

