-- ==== Sys2Proof/Machine/PermEngine.lean ====
section
/-! DEFINITION. The permutation engine and the operations SORT and PAPPLY (`41_perm_engine.md`). -/

namespace Sys2Proof.Machine

/-- `isPerm(p)`: the four elements are pairwise different (R51). -/
def isPerm (p : Perm) : Bool :=
  p.e0 != p.e1 && p.e0 != p.e2 && p.e0 != p.e3 && p.e1 != p.e2 && p.e1 != p.e3 && p.e2 != p.e3

/-- `applyPerm(t, p)`, the gather `out[i] <- t[p[i]]`, for every `p`, valid or not (R52). -/
def applyPerm (t : Tuple) (p : Perm) : Tuple := p.map t.get

/-- One turn of R53's forward pass at index `i`: both updates are on strict inequality, so ties keep the earlier index. -/
def scanStep (t : Tuple) (acc : Index × Index) (i : Index) : Index × Index :=
  (if t.get i < t.get acc.1 then i else acc.1, if t.get acc.2 < t.get i then i else acc.2)

/-- `sortIdx(t) = (mn, mx)`: the pass over `1..3` from `(0, 0)`, then `if mn == mx then mx <- 1`, which only the all-equal
tuple reaches (R53, C3; the tie rules are decision D5, log 8). -/
def sortIdx (t : Tuple) : Index × Index :=
  let (mn, mx) := ([1#2, 2#2, 3#2] : List Index).foldl (scanStep t) (0#2, 0#2)
  (mn, if mn = mx then 1#2 else mx)

/-- The 4-bit case selector `sel = {mn, mx}`, `mn` in bits 3:2 (R54). -/
def selector (mn mx : Index) : BitVec 4 := mn ++ mx

/-- The selector is one of the twelve statically enumerated branches (R54): not `0x0`, `0x5`, `0xA` or `0xF`. -/
def selectorEnumerated (sel : BitVec 4) : Bool :=
  sel != 0x0#4 && sel != 0x5#4 && sel != 0xA#4 && sel != 0xF#4

/-- The two indices of `{0,1,2,3} \ {mn, mx}` in ascending order (R55). Where `mn = mx`, which R53 excludes, three indices
remain and the first two are taken; SORT and ENC then stop (R93). -/
def remaining (mn mx : Index) : Index × Index :=
  match ([0#2, 1#2, 2#2, 3#2] : List Index).filter (fun k => k != mn && k != mx) with
  | p :: q :: _ => (p, q)
  | [] => (0#2, 0#2)
  | [p] => (p, p)

/-- The branch for `(mn, mx)` and its one more comparison: "swap" when `t[q] <u t[p]`, else "keep" (R55). -/
def sortPermIdx (t : Tuple) : Perm :=
  let (mn, mx) := sortIdx t
  let (p, q) := remaining mn mx
  if t.get q < t.get p then ⟨mn, q, p, mx⟩ else ⟨mn, p, q, mx⟩

/-- `sortPerm(t) = (perm, sorted)` with `sorted = applyPerm(t, perm)` (R56). -/
def sortPerm (t : Tuple) : Perm × Tuple :=
  let perm := sortPermIdx t
  (perm, applyPerm t perm)

/-- The selector of a tuple's sort is an enumerated branch (R54). -/
def sortEnumerated (t : Tuple) : Bool :=
  selectorEnumerated (selector (sortIdx t).1 (sortIdx t).2)

/-- One row of the sort branch table of R55. -/
structure BranchRow where
  sel : BitVec 4
  mn : Index
  mx : Index
  p : Index
  q : Index
  keep : Perm
  keepCode : OrderCode
  swap : Perm
  swapCode : OrderCode
  deriving DecidableEq, Repr

/-- The sort branch table: 12 rows keyed by the selector, 2 outcomes each (R17, R55), as the spec prints it. The meanings
compute the branch (`sortPermIdx`); the table is the constant storage R17 names. -/
def branchTable : List BranchRow :=
  [ ⟨0x1, 0, 1, 2, 3, ⟨0, 2, 3, 1⟩, 14, ⟨0, 3, 2, 1⟩, 12⟩,
    ⟨0x2, 0, 2, 1, 3, ⟨0, 1, 3, 2⟩, 22, ⟨0, 3, 1, 2⟩, 18⟩,
    ⟨0x3, 0, 3, 1, 2, ⟨0, 1, 2, 3⟩, 28, ⟨0, 2, 1, 3⟩, 26⟩,
    ⟨0x4, 1, 0, 2, 3, ⟨1, 2, 3, 0⟩, 6, ⟨1, 3, 2, 0⟩, 4⟩,
    ⟨0x6, 1, 2, 0, 3, ⟨1, 0, 3, 2⟩, 23, ⟨1, 3, 0, 2⟩, 16⟩,
    ⟨0x7, 1, 3, 0, 2, ⟨1, 0, 2, 3⟩, 29, ⟨1, 2, 0, 3⟩, 24⟩,
    ⟨0x8, 2, 0, 1, 3, ⟨2, 1, 3, 0⟩, 7, ⟨2, 3, 1, 0⟩, 2⟩,
    ⟨0x9, 2, 1, 0, 3, ⟨2, 0, 3, 1⟩, 15, ⟨2, 3, 0, 1⟩, 8⟩,
    ⟨0xB, 2, 3, 0, 1, ⟨2, 0, 1, 3⟩, 27, ⟨2, 1, 0, 3⟩, 25⟩,
    ⟨0xC, 3, 0, 1, 2, ⟨3, 1, 2, 0⟩, 5, ⟨3, 2, 1, 0⟩, 3⟩,
    ⟨0xD, 3, 1, 0, 2, ⟨3, 0, 2, 1⟩, 13, ⟨3, 2, 0, 1⟩, 9⟩,
    ⟨0xE, 3, 2, 0, 1, ⟨3, 0, 1, 2⟩, 19, ⟨3, 1, 0, 2⟩, 17⟩ ]

/-- `SORT`, sort a tuple and return its permutation (R59). -/
def execSort (s : State) : Host.Outcome State Fault Refusal :=
  let t := vectorOperand s.req
  let (perm, sorted) := sortPerm t
  s.answerIfEnumerated (sortEnumerated t) { unwritten with pz := packPerm perm, vz := sorted }

/-- `PAPPLY`, apply a permutation to a tuple (R60). With an invalid `PA` the outputs are still the gather (D9, log 7). -/
def execPapply (s : State) : Host.Outcome State Fault Refusal :=
  let p := permOperand s.req
  .next (s.answer { unwritten with
    vz := applyPerm (vectorOperand s.req) p
    st := raise .permErr (!isPerm p) 0 })

end Sys2Proof.Machine
end

