-- ==== Sys2Proof/Machine/PermCodec.lean ====
section
/-! DEFINITION. The permutation codec and the operations PENC, PDEC and PINV (`42_perm_codec.md`). -/

namespace Sys2Proof.Machine

/-- `codeValid(code)`: `a != b` (R61). -/
def codeValid (code : OrderCode) : Bool := codeA code != codeB code

/-- `permEncode(p)`: `a = p[3]`, `b = p[2]`, `c = 1` when `p[0] > p[1]` as indices; total on every array (R62). -/
def permEncode (p : Perm) : OrderCode :=
  packCode p.e3 p.e2 (if p.e1 < p.e0 then 1#1 else 0#1)

/-- The complement-pair table `COMP`: key an ascending pair, value the two remaining indices ascending (R63). -/
def compTable : List ((Index × Index) × (Index × Index)) :=
  [ ((0, 1), (2, 3)), ((0, 2), (1, 3)), ((0, 3), (1, 2)), ((1, 2), (0, 3)), ((1, 3), (0, 2)), ((2, 3), (0, 1)) ]

/-- `COMP[(min(a,b), max(a,b))]`; "the table has no key with `a = b`" (R63), so that lookup gives `none`. -/
def complement (a b : Index) : Option (Index × Index) :=
  compTable.lookup (if a < b then (a, b) else (b, a))

/-- The identity permutation `[0,1,2,3]`. -/
def identityPerm : Perm := ⟨0, 1, 2, 3⟩

/-- `permDecode(code)`: `[lo, hi, b, a]` with the complement pair swapped when `c` is set; the identity for an invalid
code (R64, D8, log 7). -/
def permDecode (code : OrderCode) : Perm :=
  match complement (codeA code) (codeB code) with
  | none => identityPerm
  | some (lo, hi) =>
    if codeC code = 1#1 then ⟨hi, lo, codeB code, codeA code⟩ else ⟨lo, hi, codeB code, codeA code⟩

/-- The loop `for i in 0..3: q[p[i]] <- i` of R65. -/
def invertPerm (p : Perm) : Perm :=
  ([0#2, 1#2, 2#2, 3#2] : List Index).foldl (fun q i => q.set (p.get i) i) ⟨0, 0, 0, 0⟩

/-- `permInverse(code)`: the inverse of `permDecode(code)`; the identity for an invalid code (R65, D8, log 7). -/
def permInverse (code : OrderCode) : Perm :=
  if codeValid code then invertPerm (permDecode code) else identityPerm

/-- One row of the code table of R66. `involution` is `none` where the spec prints a dash. -/
structure CodeRow where
  code : OrderCode
  a : Index
  b : Index
  c : BitVec 1
  valid : Bool
  decoded : Perm
  decodedPacked : Byte
  inverse : Perm
  inversePacked : Byte
  involution : Option Bool
  deriving DecidableEq, Repr

/-- The code table of R66, codes 0 to 15, as the spec prints it. -/
def codeTableLow : List CodeRow :=
  [ ⟨0, 0, 0, 0, false, ⟨0, 1, 2, 3⟩, 0xE4, ⟨0, 1, 2, 3⟩, 0xE4, none⟩,
    ⟨1, 0, 0, 1, false, ⟨0, 1, 2, 3⟩, 0xE4, ⟨0, 1, 2, 3⟩, 0xE4, none⟩,
    ⟨2, 0, 1, 0, true, ⟨2, 3, 1, 0⟩, 0x1E, ⟨3, 2, 0, 1⟩, 0x4B, some false⟩,
    ⟨3, 0, 1, 1, true, ⟨3, 2, 1, 0⟩, 0x1B, ⟨3, 2, 1, 0⟩, 0x1B, some true⟩,
    ⟨4, 0, 2, 0, true, ⟨1, 3, 2, 0⟩, 0x2D, ⟨3, 0, 2, 1⟩, 0x63, some false⟩,
    ⟨5, 0, 2, 1, true, ⟨3, 1, 2, 0⟩, 0x27, ⟨3, 1, 2, 0⟩, 0x27, some true⟩,
    ⟨6, 0, 3, 0, true, ⟨1, 2, 3, 0⟩, 0x39, ⟨3, 0, 1, 2⟩, 0x93, some false⟩,
    ⟨7, 0, 3, 1, true, ⟨2, 1, 3, 0⟩, 0x36, ⟨3, 1, 0, 2⟩, 0x87, some false⟩,
    ⟨8, 1, 0, 0, true, ⟨2, 3, 0, 1⟩, 0x4E, ⟨2, 3, 0, 1⟩, 0x4E, some true⟩,
    ⟨9, 1, 0, 1, true, ⟨3, 2, 0, 1⟩, 0x4B, ⟨2, 3, 1, 0⟩, 0x1E, some false⟩,
    ⟨10, 1, 1, 0, false, ⟨0, 1, 2, 3⟩, 0xE4, ⟨0, 1, 2, 3⟩, 0xE4, none⟩,
    ⟨11, 1, 1, 1, false, ⟨0, 1, 2, 3⟩, 0xE4, ⟨0, 1, 2, 3⟩, 0xE4, none⟩,
    ⟨12, 1, 2, 0, true, ⟨0, 3, 2, 1⟩, 0x6C, ⟨0, 3, 2, 1⟩, 0x6C, some true⟩,
    ⟨13, 1, 2, 1, true, ⟨3, 0, 2, 1⟩, 0x63, ⟨1, 3, 2, 0⟩, 0x2D, some false⟩,
    ⟨14, 1, 3, 0, true, ⟨0, 2, 3, 1⟩, 0x78, ⟨0, 3, 1, 2⟩, 0x9C, some false⟩,
    ⟨15, 1, 3, 1, true, ⟨2, 0, 3, 1⟩, 0x72, ⟨1, 3, 0, 2⟩, 0x8D, some false⟩ ]

/-- The code table of R66, codes 16 to 31, as the spec prints it. -/
def codeTableHigh : List CodeRow :=
  [ ⟨16, 2, 0, 0, true, ⟨1, 3, 0, 2⟩, 0x8D, ⟨2, 0, 3, 1⟩, 0x72, some false⟩,
    ⟨17, 2, 0, 1, true, ⟨3, 1, 0, 2⟩, 0x87, ⟨2, 1, 3, 0⟩, 0x36, some false⟩,
    ⟨18, 2, 1, 0, true, ⟨0, 3, 1, 2⟩, 0x9C, ⟨0, 2, 3, 1⟩, 0x78, some false⟩,
    ⟨19, 2, 1, 1, true, ⟨3, 0, 1, 2⟩, 0x93, ⟨1, 2, 3, 0⟩, 0x39, some false⟩,
    ⟨20, 2, 2, 0, false, ⟨0, 1, 2, 3⟩, 0xE4, ⟨0, 1, 2, 3⟩, 0xE4, none⟩,
    ⟨21, 2, 2, 1, false, ⟨0, 1, 2, 3⟩, 0xE4, ⟨0, 1, 2, 3⟩, 0xE4, none⟩,
    ⟨22, 2, 3, 0, true, ⟨0, 1, 3, 2⟩, 0xB4, ⟨0, 1, 3, 2⟩, 0xB4, some true⟩,
    ⟨23, 2, 3, 1, true, ⟨1, 0, 3, 2⟩, 0xB1, ⟨1, 0, 3, 2⟩, 0xB1, some true⟩,
    ⟨24, 3, 0, 0, true, ⟨1, 2, 0, 3⟩, 0xC9, ⟨2, 0, 1, 3⟩, 0xD2, some false⟩,
    ⟨25, 3, 0, 1, true, ⟨2, 1, 0, 3⟩, 0xC6, ⟨2, 1, 0, 3⟩, 0xC6, some true⟩,
    ⟨26, 3, 1, 0, true, ⟨0, 2, 1, 3⟩, 0xD8, ⟨0, 2, 1, 3⟩, 0xD8, some true⟩,
    ⟨27, 3, 1, 1, true, ⟨2, 0, 1, 3⟩, 0xD2, ⟨1, 2, 0, 3⟩, 0xC9, some false⟩,
    ⟨28, 3, 2, 0, true, ⟨0, 1, 2, 3⟩, 0xE4, ⟨0, 1, 2, 3⟩, 0xE4, some true⟩,
    ⟨29, 3, 2, 1, true, ⟨1, 0, 2, 3⟩, 0xE1, ⟨1, 0, 2, 3⟩, 0xE1, some true⟩,
    ⟨30, 3, 3, 0, false, ⟨0, 1, 2, 3⟩, 0xE4, ⟨0, 1, 2, 3⟩, 0xE4, none⟩,
    ⟨31, 3, 3, 1, false, ⟨0, 1, 2, 3⟩, 0xE4, ⟨0, 1, 2, 3⟩, 0xE4, none⟩ ]

/-- The contents of the decode and inverse ROMs (R17, R66). The meanings compute the rows (`permDecode`, `permInverse`),
which R65 and R18 allow; the table is the constant storage R17 names. -/
def codeTable : List CodeRow := codeTableLow ++ codeTableHigh

/-- `PENC`, encode a permutation (R69). With an invalid `PA` the formula is computed all the same (D9, log 7). -/
def execPenc (s : State) : Host.Outcome State Fault Refusal :=
  let p := permOperand s.req
  .next (s.answer { unwritten with
    bz := codeResult (permEncode p)
    st := raise .permErr (!isPerm p) 0 })

/-- `PDEC`, decode an order-code (R70). -/
def execPdec (s : State) : Host.Outcome State Fault Refusal :=
  let code := codeOperand s.req
  .next (s.answer { unwritten with
    pz := packPerm (permDecode code)
    st := raise .codeErr (!codeValid code) 0 })

/-- `PINV`, inverse permutation from an order-code (R71). -/
def execPinv (s : State) : Host.Outcome State Fault Refusal :=
  let code := codeOperand s.req
  .next (s.answer { unwritten with
    pz := packPerm (permInverse code)
    st := raise .codeErr (!codeValid code) 0 })

end Sys2Proof.Machine
end

