-- ==== Sys2Proof/Machine/DeltaHeader.lean ====
section
/-! DEFINITION. The delta transform, the header packer, and the operations DFWD, DINV, HPACK and HUNPK (`43_delta_header.md`). -/

namespace Sys2Proof.Machine

/-- What `deltaFwd` returns: `(d, cls, wrap)` (R72). -/
structure DeltaBlock where
  d : Tuple
  cls : OffsetClass
  wrap : Bool
  deriving DecidableEq, Repr

/-- `deltaFwd(s)`: the offset-adjusted base and the three consecutive differences, modulo `2^32`, with `wrap` when a
difference borrows (R72, D10). -/
def deltaFwd (T : ThrTable) (s : Tuple) : DeltaBlock :=
  let cls := bestClass T s.e0
  { d := ⟨sub32 s.e0 (thr T cls), sub32 s.e1 s.e0, sub32 s.e2 s.e1, sub32 s.e3 s.e2⟩
    cls := cls
    wrap := borrow s.e1 s.e0 || borrow s.e2 s.e1 || borrow s.e3 s.e2 }

/-- What `deltaInv` returns: `(s, wrap)` (R73). -/
structure RestoredTuple where
  s : Tuple
  wrap : Bool
  deriving DecidableEq, Repr

/-- `deltaInv(m, cls)`: the running sums from `m[0] + thr(cls)`, modulo `2^32`, with `wrap` when one of the four
additions carries (R73, D10). -/
def deltaInv (T : ThrTable) (m : Tuple) (cls : OffsetClass) : RestoredTuple :=
  let s0 := add32 m.e0 (thr T cls)
  let s1 := add32 s0 m.e1
  let s2 := add32 s1 m.e2
  let s3 := add32 s2 m.e3
  { s := ⟨s0, s1, s2, s3⟩
    wrap := carry m.e0 (thr T cls) || carry s0 m.e1 || carry s1 m.e2 || carry s2 m.e3 }

/-- `hdrPack(code, cls) = {cls, code}`; it does not check the code (R75, R30). -/
def hdrPack (code : OrderCode) (cls : OffsetClass) : Byte := cls ++ code

/-- `hdrUnpack(h) = (h[4:0], h[7:5])` (R76). -/
def hdrUnpack (h : Byte) : OrderCode × OffsetClass := (h.extractLsb' 0 5, h.extractLsb' 5 3)

/-- `DFWD`, forward delta transform (R77). -/
def execDfwd (s : State) : Host.Outcome State Fault Refusal :=
  let r := deltaFwd s.thr (vectorOperand s.req)
  .next (s.answer { unwritten with
    vz := r.d
    cz := classResult r.cls
    st := raise .wrap r.wrap 0 })

/-- `DINV`, inverse delta transform (R78). -/
def execDinv (s : State) : Host.Outcome State Fault Refusal :=
  let r := deltaInv s.thr (vectorOperand s.req) (classOperand s.req)
  .next (s.answer { unwritten with
    vz := r.s
    st := raise .wrap r.wrap 0 })

/-- `HPACK`, pack a header byte; `BZ` is packed all the same when the code is invalid (R79). -/
def execHpack (s : State) : Host.Outcome State Fault Refusal :=
  let code := codeOperand s.req
  .next (s.answer { unwritten with
    bz := hdrPack code (classOperand s.req)
    st := raise .codeErr (!codeValid code) 0 })

/-- `HUNPK`, split a header byte (R80). -/
def execHunpk (s : State) : Host.Outcome State Fault Refusal :=
  let (code, cls) := hdrUnpack (headerOperand s.req)
  .next (s.answer { unwritten with
    bz := codeResult code
    cz := classResult cls
    st := raise .codeErr (!codeValid code) 0 })

end Sys2Proof.Machine
end

