-- ==== Sys2Proof/Machine/BlockTransform.lean ====
section
/-! DEFINITION. The block transform and the operations ENC and DEC (`44_block_transform.md`). -/

namespace Sys2Proof.Machine

/-- What `encodeBlock` returns: `(hdr, d, perm, cls)` (R81). -/
structure EncodedBlock where
  hdr : Byte
  d : Tuple
  perm : Perm
  cls : OffsetClass
  deriving DecidableEq, Repr

/-- `encodeBlock(t)`: sort, forward delta, encode the permutation, pack the header (R81). -/
def encodeBlock (T : ThrTable) (t : Tuple) : EncodedBlock :=
  let (perm, sorted) := sortPerm t
  let r := deltaFwd T sorted
  { hdr := hdrPack (permEncode perm) r.cls
    d := r.d
    perm := perm
    cls := r.cls }

/-- What `decodeBlock` returns: `(t, inv, code, cls, cerr, wrap)` (R82). -/
structure DecodedBlock where
  t : Tuple
  inv : Perm
  code : OrderCode
  cls : OffsetClass
  cerr : Bool
  wrap : Bool
  deriving DecidableEq, Repr

/-- `decodeBlock(hdr, m)`: split the header, restore the sorted tuple, gather with the inverse permutation
`t[j] <- s[inv[j]]` (R82, C5). -/
def decodeBlock (T : ThrTable) (hdr : Byte) (m : Tuple) : DecodedBlock :=
  let (code, cls) := hdrUnpack hdr
  let r := deltaInv T m cls
  let inv := permInverse code
  { t := applyPerm r.s inv
    inv := inv
    code := code
    cls := cls
    cerr := !codeValid code
    wrap := r.wrap }

/-- `ENC`, encode one tuple (R83). -/
def execEnc (s : State) : Host.Outcome State Fault Refusal :=
  let t := vectorOperand s.req
  let b := encodeBlock s.thr t
  s.answerIfEnumerated (sortEnumerated t) { unwritten with
    bz := b.hdr
    cz := classResult b.cls
    pz := packPerm b.perm
    vz := b.d }

/-- `DEC`, decode one block; both status bits may be set in one response (R84, R92). -/
def execDec (s : State) : Host.Outcome State Fault Refusal :=
  let b := decodeBlock s.thr (headerOperand s.req) (vectorOperand s.req)
  .next (s.answer {
    vz := b.t
    pz := packPerm b.inv
    bz := codeResult b.code
    cz := classResult b.cls
    st := raise .wrap b.wrap (raise .codeErr b.cerr 0) })

end Sys2Proof.Machine
end

