-- ==== Sys2Proof/Machine/Reserved.lean ====
section
/-! DEFINITION. The reserved opcodes (`30_encoding.md` R37). -/

namespace Sys2Proof.Machine

/-- The response to a reserved opcode: every data output 0, `ST.ILLOP` and no other status bit (R37). -/
def reservedResponse : Response := { unwritten with st := raise .illop true 0 }

/-- Reserved `OP` `0xD` (R37). -/
def execReservedD (s : State) : Host.Outcome State Fault Refusal := .next (s.answer reservedResponse)

/-- Reserved `OP` `0xE` (R37). -/
def execReservedE (s : State) : Host.Outcome State Fault Refusal := .next (s.answer reservedResponse)

/-- Reserved `OP` `0xF` (R37). -/
def execReservedF (s : State) : Host.Outcome State Fault Refusal := .next (s.answer reservedResponse)

end Sys2Proof.Machine
end

