-- ==== Sys2Proof/Machine/Dispatch.lean ====
section
/-! DEFINITION. One arm per operation (`30_encoding.md` R36, R37): the meaning of each opcode. -/

namespace Sys2Proof.Machine

/-- The meaning of each operation of R36. -/
def exec (i : Instr) (s : State) : Host.Outcome State Fault Refusal :=
  match i with
  | .thr => Sys2Proof.Machine.execThr s
  | .cls => Sys2Proof.Machine.execCls s
  | .sort => Sys2Proof.Machine.execSort s
  | .papply => Sys2Proof.Machine.execPapply s
  | .penc => Sys2Proof.Machine.execPenc s
  | .pdec => Sys2Proof.Machine.execPdec s
  | .pinv => Sys2Proof.Machine.execPinv s
  | .dfwd => Sys2Proof.Machine.execDfwd s
  | .dinv => Sys2Proof.Machine.execDinv s
  | .hpack => Sys2Proof.Machine.execHpack s
  | .hunpk => Sys2Proof.Machine.execHunpk s
  | .enc => Sys2Proof.Machine.execEnc s
  | .dec => Sys2Proof.Machine.execDec s
  | .reservedD => Sys2Proof.Machine.execReservedD s
  | .reservedE => Sys2Proof.Machine.execReservedE s
  | .reservedF => Sys2Proof.Machine.execReservedF s

end Sys2Proof.Machine
end

