-- ==== Sys2Proof/WellFormed.lean ====
section
/-! DEFINITION. What a well-formed configuration and a well-formed operation are. -/

namespace Sys2Proof

/-- The first condition of R44: class 0 has threshold 0. -/
def ThrTable.startsAtZero (T : ThrTable) : Bool := T.t0 == 0

/-- The second condition of R44: `THR[k] <u THR[k+1]` for `k` in `0..6`. -/
def ThrTable.increasing (T : ThrTable) : Bool :=
  decide (T.t0 < T.t1) && decide (T.t1 < T.t2) && decide (T.t2 < T.t3) && decide (T.t3 < T.t4) &&
    decide (T.t4 < T.t5) && decide (T.t5 < T.t6) && decide (T.t6 < T.t7)

/-- A legal `THR` (R44). "A table that breaks these conditions is not a legal `THR` and the model refuses it":
`step` answers such a machine with the refusal `illegalThresholdTable`. -/
def ThrTable.legal (T : ThrTable) : Bool := T.startsAtZero && T.increasing

/-- Every operation of R36 is well-formed: the request word is `OP` alone (R35), no operand field of it could be out of
range, and every operand value on the ports is accepted (R91). -/
def Instr.wellFormed : Instr → Bool
  | .thr => true
  | .cls => true
  | .sort => true
  | .papply => true
  | .penc => true
  | .pdec => true
  | .pinv => true
  | .dfwd => true
  | .dinv => true
  | .hpack => true
  | .hunpk => true
  | .enc => true
  | .dec => true
  | .reservedD => true
  | .reservedE => true
  | .reservedF => true

end Sys2Proof
end

