-- ==== Sys2Proof/Machine/Step.lean ====
section
/-! DEFINITION. One step of the core: one request, one response (`20_memory.md` R29, `70_reset_and_hazards.md` R107). -/

namespace Sys2Proof.Machine

/-- A machine whose table breaks R44 is refused before it runs anything (R44, I3). Otherwise a presented request is answered
by the operation its `OP` selects (R36), in one atomic step; with no request presented the core waits and nothing
changes (log 4). -/
def step (s : State) : Host.Outcome State Fault Refusal :=
  if s.thr.legal then
    match s.phase with
    | .presented => exec (decodeOp s.fetchOp) s
    | .beforeFirst => .next s
    | .answered => .next s
  else .refused .illegalThresholdTable

/-- The host presents the request word `w` on `OP`, the other request ports as they stand (R35). `OP` is 4 bits wide, so
only bits 3:0 of the word reach it (log 6); this is how a request comes to run (log 5). -/
def State.withFetchWord (s : State) (nbits w : Nat) : State :=
  s.present { s.req with op := (BitVec.ofNat nbits w).setWidth 4 }

end Sys2Proof.Machine
end

