-- ==== Sys2Proof/Machine/HostSide.lean ====
section
/-! DEFINITION. The host around the core (`20_memory.md` R21 to R27, `30_encoding.md` R41): how it issues requests, runs a
sequence of them, and encodes and decodes blocks with the external variable-length layer. None of it is state of the core
(R8); the core's part of every procedure is `step`. -/

namespace Sys2Proof.Machine

/-- The external variable-length layer, a parameter with one law (R22, I10). `compress(buffer, v)` "appends a byte encoding
of the four magnitudes": `payload v` is what it appends. `decompress` may fail on a slice too short for a payload (R26, R90); whether
it can fail otherwise is in no source (N9), and the law fixes it only on what `compress` writes (DEDUCED, log 10). -/
structure VarLayer where
  /-- The bytes that `compress` appends. -/
  payload : Tuple → List Byte
  /-- `decompress(bytes) -> (remaining, [u32;4])`, or nothing where the layer detects a short slice. -/
  decompress : List Byte → Option (List Byte × Tuple)
  /-- `decompress(compress(b, v) ++ rest) = (rest, v)`, from the front of the appended bytes. -/
  law : ∀ (v : Tuple) (rest : List Byte), decompress (payload v ++ rest) = some (rest, v)

/-- `compress(buffer, v)`: "append-only (never truncate or reorder existing bytes)" (R22, R24). -/
def VarLayer.compress (L : VarLayer) (buffer : List Byte) (v : Tuple) : List Byte := buffer ++ L.payload v

/-- Why a host procedure gives up. -/
inductive HostError where
  /-- The slice has no header byte; the host detects it before any request (R25 (1), R90). -/
  | emptySlice
  /-- The layer found the slice too short for a payload (R26, R90). -/
  | shortPayload
  /-- The header's order-code is not one of the 24 legal values (R26, R88). -/
  | malformedHeader
  /-- The core gave no response (R91: it never happens on a core the spec admits). -/
  | noResponse
  deriving DecidableEq, Repr

/-- The request with only `OP` chosen; the ports an operation does not read are don't-care (`95_test_vectors.md` §3). -/
def requestFor (i : Instr) : Request :=
  { op := encodeOp i, va := ⟨0, 0, 0, 0⟩, pa := 0, ba := 0, bb := 0 }

/-- The host issues a request: it presents the request, the core takes its step, the host reads the response (R11, R12). -/
def issue (r : Request) (s : State) : Except HostError (Response × State) :=
  match step (s.present r) with
  | .next s' =>
    match s'.response? with
    | some resp => .ok (resp, s')
    | none => .error .noResponse
  | .fault _ => .error .noResponse
  | .refused _ => .error .noResponse

/-- A sequence of requests, the only "program" (R10, R41). `host` is what the host does next, given the responses so far: the
request it presents, into whose operands it may route any of those outputs, or nothing, which ends the sequence. At most
`n` requests are presented; the answer is all the responses, oldest first. -/
def hostRun (host : List Response → Option Request) :
    Nat → List Response → State → Except HostError (List Response × State)
  | 0, seen, s => .ok (seen, s)
  | n + 1, seen, s =>
    match host seen with
    | none => .ok (seen, s)
    | some r =>
      match issue r s with
      | .ok (resp, s') => hostRun host n (seen ++ [resp]) s'
      | .error e => .error e

/-- A host that presents the requests of a list one after another (R41). -/
def listHost (rs : List Request) (seen : List Response) : Option Request := rs[seen.length]?

/-- `F_THR(request)` (R12): what a core built with the table `T` answers to the request just after reset (R19, R103). -/
def answerOf (T : ThrTable) (r : Request) : Option Response :=
  match issue r (State.reset.withTable T) with
  | .ok (resp, _) => some resp
  | .error _ => none

/-- Host encode of one tuple (R24): issue ENC, append the header byte, hand the delta block to `compress`. -/
def hostEncode (L : VarLayer) (t : Tuple) (buffer : List Byte) (s : State) : Except HostError (List Byte × State) :=
  match issue { requestFor .enc with va := t } s with
  | .ok (resp, s') => .ok (L.compress (buffer ++ [resp.bz]) resp.vz, s')
  | .error e => .error e

/-- Host decode of one block from a slice (R25): the header byte, then `decompress`, then DEC; the unconsumed suffix and the
tuple. -/
def hostDecode (L : VarLayer) (slice : List Byte) (s : State) : Except HostError ((List Byte × Tuple) × State) :=
  match slice with
  | [] => .error .emptySlice
  | h :: bytes =>
    match L.decompress bytes with
    | none => .error .shortPayload
    | some (remaining, m) =>
      match issue { requestFor .dec with ba := h, va := m } s with
      | .ok (resp, s') => .ok ((remaining, resp.vz), s')
      | .error e => .error e

/-- Host decode of untrusted bytes (R26). A short slice is found before any request (R90); then the header is checked with HUNPK's
`ST.CODE_ERR` (log 13), and decode is called, and DEC issued, only for a header whose order-code is legal. -/
def hostDecodeValidated (L : VarLayer) (slice : List Byte) (s : State) :
    Except HostError ((List Byte × Tuple) × State) :=
  match slice with
  | [] => .error .emptySlice
  | h :: bytes =>
    match L.decompress bytes with
    | none => .error .shortPayload
    | some _ =>
      match issue { requestFor .hunpk with ba := h } s with
      | .ok (resp, s') =>
        if statusOf resp.st .codeErr then .error .malformedHeader else hostDecode L slice s'
      | .error e => .error e

end Sys2Proof.Machine
end

