-- ==== Sys2Proof/Safety.lean ====
section
/-! DEFINITION. The terms claims about this core are made in: what a well-behaved state is, and what "sorted" and "the same values" mean. -/

namespace Sys2Proof.Machine

/-- A tuple is non-decreasing: `t[0] <=u t[1] <=u t[2] <=u t[3]` (R57 item 2, R72). -/
abbrev NonDecreasing (t : Tuple) : Prop := t.e0 ≤ t.e1 ∧ t.e1 ≤ t.e2 ∧ t.e2 ≤ t.e3

/-- Two tuples hold the same values with the same multiplicities (R57 item 4). -/
abbrev SameValues (t u : Tuple) : Prop :=
  ∀ x : Word, [t.e0, t.e1, t.e2, t.e3].count x = [u.e0, u.e1, u.e2, u.e3].count x

/-- The response ports, once answered, hold exactly the response to the request on the request ports (R12, R29): running the
selected operation on them again changes nothing. -/
def State.Honest (s : State) : Prop :=
  s.phase = .answered → exec (decodeOp s.fetchOp) s = .next s

/-- The invariant of the core: the table it was built with is legal (R44), and an answer on the response ports is the answer
to the request on the request ports (R12, R29). -/
def State.Inv (s : State) : Prop := s.thr.legal = true ∧ s.Honest

end Sys2Proof.Machine
end

