-- ==== Sys2Proof/Certificates/Slice0/Obligations.lean ====
section
/-! DEFINITION. The statements for the provers. Each docstring names the rules it formalises. A response is written `⟨VZ, PZ, BZ, CZ, ST⟩`, a
tuple or permutation `⟨v0, v1, v2, v3⟩`. `answerOf T r` is the response of a core built with the table `T` to the request `r`, and
`requestFor i` the request of operation `i` with its operands to be filled in. -/

open Sys2Proof Sys2Proof.Machine

/-! ### Requests, steps and the whole machine -/

/-- R35 to R38: decoding the bytes of an operation gives it back and leaves the bytes after it; every one of the sixteen `OP`
values is the encoding of the operation it decodes to; the table's word decodes to its row's operation. -/
def Obligations.DecodeEncodeAgree : Prop :=
  (∀ (i : Instr) (rest : List Byte), i.wellFormed = true → decode (encode i ++ rest) = .ok (i, rest)) ∧
  (∀ op : OpCode, encodeOp (decodeOp op) = op) ∧
  (∀ i : Instr, decodeTableWord 8 (encodeOp i).toNat = some i)

/-- R36 and R37: the sixteen words of the opcode map, written out. -/
def Obligations.OpcodeMapWords : Prop :=
  decodeOp 0b0000#4 = .thr ∧ decodeOp 0b0001#4 = .cls ∧ decodeOp 0b0010#4 = .sort ∧ decodeOp 0b0011#4 = .papply ∧
  decodeOp 0b0100#4 = .penc ∧ decodeOp 0b0101#4 = .pdec ∧ decodeOp 0b0110#4 = .pinv ∧ decodeOp 0b0111#4 = .dfwd ∧
  decodeOp 0b1000#4 = .dinv ∧ decodeOp 0b1001#4 = .hpack ∧ decodeOp 0b1010#4 = .hunpk ∧ decodeOp 0b1011#4 = .enc ∧
  decodeOp 0b1100#4 = .dec ∧ decodeOp 0b1101#4 = .reservedD ∧ decodeOp 0b1110#4 = .reservedE ∧
  decodeOp 0b1111#4 = .reservedF

/-- A step runs the operation that the presented request's `OP` decodes to, and adds nothing around it (R12, R36). That a core
with no request presented waits unchanged is the model's choice (log 4). -/
def Obligations.StepRunsThePresentedRequest : Prop :=
  ∀ s : State, s.thr.legal = true →
    (s.phase = .presented → step s = exec (decodeOp s.req.op) s) ∧
    (s.phase ≠ .presented → step s = .next s)

/-- A request word placed where the step fetches is the operation the next step runs, on the operands already on the ports
(how a request comes to run is log 5). -/
def Obligations.FetchedWordIsRunNext : Prop :=
  ∀ (s : State) (i : Instr), s.thr.legal = true →
    step (s.withFetchWord 8 (encodeOp i).toNat) = exec i (s.present { s.req with op := encodeOp i })

/-- R91: "Every request, whatever its `OP` and operands, gets exactly one response with every output defined". Every operation
completes in every state, and what it does is to answer: only the response ports and the answered mark change. -/
def Obligations.EveryRequestIsAnswered : Prop :=
  (∀ (i : Instr) (s : State), ∃ r : Response, exec i s = .next (s.answer r)) ∧
  (∀ (s : State) (r : Request), s.thr.legal = true →
    ∃ resp : Response, step (s.present r) = .next ((s.present r).answer resp) ∧
      ((s.present r).answer resp).response? = some resp ∧
      issue r s = .ok (resp, (s.present r).answer resp))

/-- R93 with R54: `sortIdx` always gives `mn != mx`, the selector is one of the twelve branches, so no step faults and
`ST.INVAR` is 0 in every response. -/
def Obligations.InvariantViolationUnreachable : Prop :=
  (∀ t : Tuple, (sortIdx t).1 ≠ (sortIdx t).2 ∧
    selector (sortIdx t).1 (sortIdx t).2 ∈ [0x1#4, 0x2#4, 0x3#4, 0x4#4, 0x6#4, 0x7#4, 0x8#4, 0x9#4, 0xB#4, 0xC#4, 0xD#4, 0xE#4]) ∧
  (∀ (s : State) (f : Fault), step s ≠ .fault f) ∧
  (∀ (i : Instr) (s : State), ∃ t : State, exec i s = .next t ∧ statusOf t.resp.st .invar = false)

/-- R13 with R36's Writes column: in every response the output bits the operation's rule does not write are 0. -/
def Obligations.UnwrittenOutputsAreZero : Prop :=
  ∀ (i : Instr) (s : State), ∃ r : Response, exec i s = .next (s.answer r) ∧ r.masked (writeMask i) = r

/-- R11 with R36's Reads column: two states with the same table whose requests agree on the bits the operation reads get the
same response, whatever else differs (the ignored operand bits, the response ports, the phase). -/
def Obligations.OnlyReadBitsMatter : Prop :=
  ∀ (i : Instr) (s s' : State), s.thr = s'.thr → s.req.masked (readMask i) = s'.req.masked (readMask i) →
    ∃ r : Response, exec i s = .next (s.answer r) ∧ exec i s' = .next (s'.answer r)

/-- R8 and R12: the response to a request is `F_THR(request)`, what a core fresh from reset with the same table answers,
whatever state the core is in. -/
def Obligations.ResponseIsAFunctionOfTheRequest : Prop :=
  ∀ (s : State) (r : Request), s.thr.legal = true →
    ∃ resp : Response, answerOf s.thr r = some resp ∧ step (s.present r) = .next ((s.present r).answer resp)

/-- R28 and R41: however the host chooses its requests from the responses so far, every request it presents gets the response
it would get alone; the run never fails. -/
def Obligations.RequestSequencesAnswerAsAlone : Prop :=
  ∀ (host : List Response → Option Request) (n : Nat) (seen : List Response) (s : State), s.thr.legal = true →
    ∃ (out : List Response) (t : State), hostRun host n seen s = .ok (seen ++ out, t) ∧ out.length ≤ n ∧
      (∀ (k : Nat) (hk : k < out.length),
        ∃ r : Request, host (seen ++ out.take k) = some r ∧ answerOf s.thr r = some out[k]) ∧
      (out.length < n → host (seen ++ out) = none)

/-- R16: no operation writes the threshold table; nor does a step touch the request ports, which are the host's. -/
def Obligations.TableAndRequestUnchanged : Prop :=
  (∀ (i : Instr) (s t : State), exec i s = .next t → t.thr = s.thr ∧ t.req = s.req) ∧
  (∀ s t : State, step s = .next t → t.thr = s.thr ∧ t.req = s.req)

/-- Every step keeps the invariant: a legal table (R44), and response ports that, once answered, hold the answer to the request
on the request ports (R12, R29). -/
def Obligations.StepKeepsTheInvariant : Prop :=
  ∀ s t : State, s.Inv → step s = .next t → t.Inv

/-- The state after reset has the invariant. -/
def Obligations.ResetHasTheInvariant : Prop := State.reset.Inv

/-- R19, R45 and R103: after reset the table is its constant contents, NIB1; any request may be presented at once and is answered
by the first step, with the response that `answerOf` names for NIB1. That no output may be observed yet is how the model takes
R19's "observes the outputs only as the response to a request" (log 4). That every other state with the table answers alike is
`ResponseIsAFunctionOfTheRequest`. -/
def Obligations.ResetIsReadyAtOnce : Prop :=
  State.reset.thr = Config.nib1 ∧ State.reset.response? = none ∧
  ∀ r : Request, ∃ resp : Response, step (State.reset.present r) = .next ((State.reset.present r).answer resp) ∧
    answerOf Config.nib1 r = some resp

/-! ### The status word -/

/-- R14 and R89: in every response each status bit is set exactly for its cause, by the operations the table names; bits 7:5
and `INVAR` are 0. -/
def Obligations.StatusBitsReportTheirCauses : Prop :=
  ∀ (i : Instr) (s : State), ∃ r : Response, exec i s = .next (s.answer r) ∧
    (statusOf r.st .codeErr = true ↔
      i ∈ [Instr.pdec, .pinv, .hpack, .hunpk, .dec] ∧
        s.req.ba.extractLsb' 3 2 = s.req.ba.extractLsb' 1 2) ∧
    (statusOf r.st .permErr = true ↔ i ∈ [Instr.penc, .papply] ∧ isPerm (unpackPerm s.req.pa) = false) ∧
    (statusOf r.st .wrap = true ↔
      (i = .dfwd ∧ ¬ NonDecreasing s.req.va) ∨
      (i = .dinv ∧ (deltaInv s.thr s.req.va (s.req.bb.extractLsb' 0 3)).wrap = true) ∨
      (i = .dec ∧ (deltaInv s.thr s.req.va (s.req.ba.extractLsb' 5 3)).wrap = true)) ∧
    (statusOf r.st .illop = true ↔ i ∈ [Instr.reservedD, .reservedE, .reservedF]) ∧
    statusOf r.st .invar = false ∧ r.st.extractLsb' 5 3 = 0

/-- R92: only DEC raises two causes at once, `CODE_ERR` and `WRAP` together (`ST = 0x05`); every other response has at most one
bit set. -/
def Obligations.OnlyDecReportsTwoCauses : Prop :=
  (∀ (i : Instr) (s : State), ∃ r : Response, exec i s = .next (s.answer r) ∧
    (r.st ∈ [0x00#8, 0x01#8, 0x02#8, 0x04#8, 0x08#8] ∨ (i = .dec ∧ r.st = 0x05#8))) ∧
  answerOf Config.nib1 { requestFor .dec with ba := 0xE0, va := ⟨0xF0000001, 0, 0, 0⟩ } =
    some ⟨⟨0, 0, 0, 0⟩, 0xE4, 0, 7, 0x05⟩

/-! ### The offset-class table and classifier -/

/-- R45: the default table is `THR[k] = 2^(4k) - 1`; it meets R44; its class 7 entry is `0xFFFFFFFF >> 4`; a model given no
other table uses it. -/
def Obligations.DefaultTableValues : Prop :=
  (∀ k : OffsetClass, (thr Config.nib1 k).toNat = 2 ^ (4 * k.toNat) - 1) ∧
  Config.nib1.legal = true ∧ thr Config.nib1 7 = 0xFFFFFFFF#32 >>> 4 ∧ State.reset.thr = Config.nib1

/-- R44: the legal tables are those with `THR[0] = 0` that strictly increase; their eight thresholds differ; a table that
breaks the conditions is refused, whatever the state. (The bound the rule draws from them is `LegalTableTopBound`.) -/
def Obligations.LegalTables : Prop :=
  (∀ T : ThrTable, T.legal = true ↔
    thr T 0 = 0 ∧ ∀ k : OffsetClass, k < 7 → thr T k < thr T (k + 1)) ∧
  (∀ T : ThrTable, T.legal = true → ∀ j k : OffsetClass, thr T j = thr T k → j = k) ∧
  (∀ s : State, s.thr.legal = false → step s = .refused .illegalThresholdTable)

/-- R44's sentence "So `THR[7] <= 2^32 - 8`": it does not follow from the two conditions (log 15), so this is expected to
fail. -/
def Obligations.LegalTableTopBound : Prop :=
  ∀ T : ThrTable, T.legal = true → (thr T 7).toNat ≤ 2 ^ 32 - 8

/-- R46 and R47: for a legal table `bestClass(n)` is the unique `k` with `thr(k) <=u n` and either `k = 7` or `n <u thr(k+1)`; no
larger class has its threshold at most `n`, and the subtraction never borrows. -/
def Obligations.ClassifierIsTight : Prop :=
  ∀ (T : ThrTable) (n : Word), T.legal = true →
    thr T (bestClass T n) ≤ n ∧
    (∀ k : OffsetClass, bestClass T n < k → ¬ thr T k ≤ n) ∧
    borrow n (thr T (bestClass T n)) = false ∧
    (∀ k : OffsetClass, (thr T k ≤ n ∧ (k = 7 ∨ n < thr T (k + 1))) ↔ k = bestClass T n)

/-- R48: the class ranges under NIB1. -/
def Obligations.DefaultClassRanges : Prop :=
  ∀ n : Word, bestClass Config.nib1 n =
    if n ≤ 0x0000000E then 0 else if n ≤ 0x000000FE then 1 else if n ≤ 0x00000FFE then 2
    else if n ≤ 0x0000FFFE then 3 else if n ≤ 0x000FFFFE then 4 else if n ≤ 0x00FFFFFE then 5
    else if n ≤ 0x0FFFFFFE then 6 else 7

/-- R49, with R43: THR answers the entry of class `BB[2:0]`; bits `BB[7:3]` are ignored; class 0 gives 0 for a legal table; the
NIB1 example. -/
def Obligations.ThrAnswersTheThreshold : Prop :=
  decodeOp 0x0 = .thr ∧
  (∀ T : ThrTable, [thr T 0, thr T 1, thr T 2, thr T 3, thr T 4, thr T 5, thr T 6, thr T 7] =
    [T.t0, T.t1, T.t2, T.t3, T.t4, T.t5, T.t6, T.t7]) ∧
  (∀ s : State, exec .thr s =
    .next (s.answer ⟨⟨thr s.thr (s.req.bb.extractLsb' 0 3), 0, 0, 0⟩, 0, 0, 0, 0⟩)) ∧
  (∀ T : ThrTable, T.legal = true → thr T 0 = 0) ∧
  (∀ bb : Byte, (bb ||| 0xF8).extractLsb' 0 3 = bb.extractLsb' 0 3) ∧
  answerOf Config.nib1 { requestFor .thr with bb := 3 } = some ⟨⟨0x00000FFF, 0, 0, 0⟩, 0, 0, 0, 0⟩

/-- R50: CLS answers the class of `VA[0]` on `CZ` for every table; for a legal one, the corner cases of the rule. -/
def Obligations.ClsAnswersTheClass : Prop :=
  decodeOp 0x1 = .cls ∧
  (∀ s : State, exec .cls s =
    .next (s.answer ⟨⟨0, 0, 0, 0⟩, 0, 0, (bestClass s.thr s.req.va.e0).setWidth 8, 0⟩)) ∧
  (∀ T : ThrTable, T.legal = true →
    bestClass T 0 = 0 ∧ bestClass T 0xFFFFFFFF = 7 ∧
    (∀ k : OffsetClass, bestClass T (thr T k) = k) ∧
    (∀ k : OffsetClass, 1 ≤ k → bestClass T (thr T k - 1) = k - 1)) ∧
  [123, 15, 14].map (fun n => answerOf Config.nib1 { requestFor .cls with va := ⟨n, 0, 0, 0⟩ }) =
    [some ⟨⟨0, 0, 0, 0⟩, 0, 0, 1, 0⟩, some ⟨⟨0, 0, 0, 0⟩, 0, 0, 1, 0⟩, some ⟨⟨0, 0, 0, 0⟩, 0, 0, 0, 0⟩]

/-! ### The permutation engine -/

/-- R32: element `i` of a packed permutation is in bits `[2i+1:2i]`; packing and unpacking are each other's inverse on all 256
bytes; the identity packs to `0xE4`. -/
def Obligations.PermutationPacking : Prop :=
  (∀ p : Perm, (packPerm p).toNat = p.e0.toNat + 4 * p.e1.toNat + 16 * p.e2.toNat + 64 * p.e3.toNat) ∧
  (∀ p : Perm, unpackPerm (packPerm p) = p) ∧ (∀ b : Byte, packPerm (unpackPerm b) = b) ∧
  packPerm ⟨0, 1, 2, 3⟩ = 0xE4

/-- R51: `isPerm` is that the four elements are pairwise different; exactly 24 of the 256 packed bytes are valid. -/
def Obligations.TwentyFourPermutations : Prop :=
  (∀ p : Perm, isPerm p = true ↔ ∀ i j : Index, i ≠ j → p.get i ≠ p.get j) ∧
  (List.range 256).countP (fun b => isPerm (unpackPerm (BitVec.ofNat 8 b))) = 24

/-- R53's closed form: `mn` is the least index holding the minimum, `mx` the least index other than `mn` holding the maximum;
they differ, they bound every element, and a tuple of four equal values has the pair `(0, 1)`. -/
def Obligations.MinMaxIndexClosedForm : Prop :=
  ∀ t : Tuple,
    (∀ k : Index, t.get (sortIdx t).1 ≤ t.get k ∧ t.get k ≤ t.get (sortIdx t).2) ∧
    (∀ k : Index, k < (sortIdx t).1 → t.get (sortIdx t).1 < t.get k) ∧
    (∀ k : Index, k ≠ (sortIdx t).1 → k < (sortIdx t).2 → t.get k < t.get (sortIdx t).2) ∧
    (sortIdx t).1 ≠ (sortIdx t).2 ∧
    ((∀ k : Index, t.get k = t.get 0) → sortIdx t = (0, 1))

/-- R53's sentence "`(mn, mx) = (0, 1)` exactly when all four values are equal": the pseudocode also gives `(0, 1)` for
`[1,3,3,3]` and `[10,40,20,30]` (V36 and V44 of `95_test_vectors.md`), so this is expected to fail (log 16). -/
def Obligations.PairZeroOneOnlyWhenAllEqual : Prop :=
  ∀ t : Tuple, sortIdx t = (0, 1) ↔ ∀ k : Index, t.get k = t.get 0

/-- R54 and R55: for every tuple the row of the branch table for its selector gives its permutation, by the one comparison of
the remaining pair; the rows' codes are those of `permEncode`; the 24 outcomes are 24 different permutations. -/
def Obligations.SortFollowsTheBranchTable : Prop :=
  (∀ t : Tuple, ∃ row ∈ branchTable,
    row.sel = selector (sortIdx t).1 (sortIdx t).2 ∧ (row.mn, row.mx) = sortIdx t ∧
    sortPermIdx t = if t.get row.q < t.get row.p then row.swap else row.keep) ∧
  (∀ row ∈ branchTable, row.sel = selector row.mn row.mx ∧ remaining row.mn row.mx = (row.p, row.q) ∧
    row.keep = ⟨row.mn, row.p, row.q, row.mx⟩ ∧ row.swap = ⟨row.mn, row.q, row.p, row.mx⟩ ∧
    permEncode row.keep = row.keepCode ∧ permEncode row.swap = row.swapCode) ∧
  (branchTable.map (·.sel)).Nodup ∧ branchTable.length = 12 ∧
  (branchTable.map (·.keep) ++ branchTable.map (·.swap)).Nodup ∧
  (∀ row ∈ branchTable, isPerm row.keep = true ∧ isPerm row.swap = true)

/-- R57: for every tuple the sorter's permutation is valid, the sorted tuple is non-decreasing, is the gather of the tuple by
the permutation, and holds the same values with the same multiplicities. -/
def Obligations.SorterLaws : Prop :=
  ∀ t : Tuple,
    isPerm (sortPerm t).1 = true ∧ NonDecreasing (sortPerm t).2 ∧
    applyPerm t (sortPerm t).1 = (sortPerm t).2 ∧ SameValues (sortPerm t).2 t

/-- R59: SORT answers the permutation on `PZ` and the sorted tuple on `VZ`, `ST = 0x00` always; the corner cases and the example
of the rule. -/
def Obligations.SortAnswersPermutationAndTuple : Prop :=
  decodeOp 0x2 = .sort ∧
  (∀ s : State, exec .sort s =
    .next (s.answer ⟨(sortPerm s.req.va).2, packPerm (sortPerm s.req.va).1, 0, 0, 0⟩)) ∧
  (∀ x : Word, sortIdx ⟨x, x, x, x⟩ = (0, 1) ∧ sortPerm ⟨x, x, x, x⟩ = (⟨0, 2, 3, 1⟩, ⟨x, x, x, x⟩)) ∧ packPerm ⟨0, 2, 3, 1⟩ = 0x78 ∧
  (∀ t : Tuple, t.e0 < t.e1 → t.e1 < t.e2 → t.e2 < t.e3 → (sortPerm t).1 = ⟨0, 1, 2, 3⟩) ∧
  (∀ t : Tuple, t.e3 < t.e2 → t.e2 < t.e1 → t.e1 < t.e0 → (sortPerm t).1 = ⟨3, 2, 1, 0⟩) ∧
  packPerm ⟨0, 1, 2, 3⟩ = 0xE4 ∧ packPerm ⟨3, 2, 1, 0⟩ = 0x1B ∧
  sortIdx ⟨5, 5, 3, 3⟩ = (2, 0) ∧ remaining 2 0 = (1, 3) ∧ sortIdx ⟨9, 8, 9, 8⟩ = (1, 0) ∧
  sortPerm ⟨5, 5, 3, 3⟩ = (⟨2, 3, 1, 0⟩, ⟨3, 3, 5, 5⟩) ∧ packPerm ⟨2, 3, 1, 0⟩ = 0x1E ∧
  sortPerm ⟨9, 8, 9, 8⟩ = (⟨1, 3, 2, 0⟩, ⟨8, 8, 9, 9⟩) ∧ packPerm ⟨1, 3, 2, 0⟩ = 0x2D ∧
  sortPerm ⟨0xFFFFFFFF, 0, 0xFFFFFFFF, 0⟩ = (⟨1, 3, 2, 0⟩, ⟨0, 0, 0xFFFFFFFF, 0xFFFFFFFF⟩) ∧
  answerOf Config.nib1 { requestFor .sort with va := ⟨7, 6, 4, 3⟩ } = some ⟨⟨3, 4, 6, 7⟩, 0x1B, 0, 0, 0⟩

/-- R60, with R52: PAPPLY answers the gather `VA[p[i]]` for every `PA`, with `PERM_ERR` exactly when `PA` is not a permutation; the
corner cases and the example of the rule. -/
def Obligations.PapplyAnswersTheGather : Prop :=
  decodeOp 0x3 = .papply ∧
  (∀ s : State, exec .papply s =
    .next (s.answer ⟨⟨s.req.va.get (s.req.pa.extractLsb' 0 2), s.req.va.get (s.req.pa.extractLsb' 2 2),
        s.req.va.get (s.req.pa.extractLsb' 4 2), s.req.va.get (s.req.pa.extractLsb' 6 2)⟩, 0, 0, 0,
      if isPerm (unpackPerm s.req.pa) then 0x00 else 0x02⟩)) ∧
  (∀ t : Tuple, applyPerm t (unpackPerm 0xE4) = t) ∧ isPerm (unpackPerm 0xE4) = true ∧
  (∀ t : Tuple, applyPerm t (unpackPerm 0x00) = ⟨t.e0, t.e0, t.e0, t.e0⟩) ∧ isPerm (unpackPerm 0x00) = false ∧
  (∀ (p : Perm) (t : Tuple), isPerm p = true → applyPerm (applyPerm t p) (permInverse (permEncode p)) = t) ∧
  (∀ p : Perm, isPerm p = true → ((∀ t : Tuple, applyPerm (applyPerm t p) p = t) ↔ p = permInverse (permEncode p))) ∧
  answerOf Config.nib1 { requestFor .papply with va := ⟨3, 4, 6, 7⟩, pa := 0x1B } = some ⟨⟨7, 6, 4, 3⟩, 0, 0, 0, 0⟩

/-! ### The permutation codec -/

/-- R61: the fields `a`, `b` and `c` of a code; it is valid exactly when `a != b`; the 24 valid codes and the 8 invalid ones, listed. -/
def Obligations.ValidOrderCodes : Prop :=
  (∀ code : OrderCode, codeA code = code.extractLsb' 3 2 ∧ codeB code = code.extractLsb' 1 2 ∧ codeC code = code.extractLsb' 0 1) ∧
  (∀ code : OrderCode, codeValid code = true ↔ code.extractLsb' 3 2 ≠ code.extractLsb' 1 2) ∧
  (∀ code : OrderCode, codeValid code = true ↔ code.toNat ∈
    [2, 3, 4, 5, 6, 7, 8, 9, 12, 13, 14, 15, 16, 17, 18, 19, 22, 23, 24, 25, 26, 27, 28, 29]) ∧
  (∀ code : OrderCode, codeValid code = false ↔ code.toNat ∈ [0, 1, 10, 11, 20, 21, 30, 31])

/-- R63: the complement-pair table: for `a != b` the two indices other than `a` and `b`, in ascending order, whichever of the
two is smaller; no entry for `a = b`. -/
def Obligations.ComplementPairs : Prop :=
  complement 0 1 = some (2, 3) ∧ complement 0 2 = some (1, 3) ∧ complement 0 3 = some (1, 2) ∧
  complement 1 2 = some (0, 3) ∧ complement 1 3 = some (0, 2) ∧ complement 2 3 = some (0, 1) ∧
  (∀ a b : Index, complement a b = complement b a) ∧ (∀ a : Index, complement a a = none) ∧
  (∀ a b lo hi : Index, complement a b = some (lo, hi) →
    lo < hi ∧ lo ≠ a ∧ lo ≠ b ∧ hi ≠ a ∧ hi ≠ b)

/-- R66, with R64, R65 and R31: the 32 printed rows of the code table, in order, are what the formulas give; a code's row is
marked an involution exactly when its permutation is its own inverse; 10 are. -/
def Obligations.CodeTableMatchesTheFormulas : Prop :=
  codeTable.map (·.code.toNat) = List.range 32 ∧
  (∀ row ∈ codeTable, row.a = codeA row.code ∧ row.b = codeB row.code ∧ row.c = codeC row.code ∧
    row.valid = codeValid row.code ∧
    row.decoded = permDecode row.code ∧ row.decodedPacked = packPerm row.decoded ∧
    row.inverse = permInverse row.code ∧ row.inversePacked = packPerm row.inverse ∧
    row.involution = if codeValid row.code then some (decide (permDecode row.code = permInverse row.code)) else none) ∧
  codeTable.countP (fun row => row.involution = some true) = 10

/-- R67: `permEncode` is a bijection from the 24 valid permutations onto the 24 valid codes and `permDecode` is its inverse
there. -/
def Obligations.OrderCodeBijection : Prop :=
  (∀ p : Perm, isPerm p = true → codeValid (permEncode p) = true ∧ permDecode (permEncode p) = p) ∧
  (∀ code : OrderCode, codeValid code = true → isPerm (permDecode code) = true ∧ permEncode (permDecode code) = code)

/-- R65: for a valid code `permInverse` is the two-sided inverse of `permDecode`; for an invalid one both are the
identity. -/
def Obligations.InverseOfADecodedPermutation : Prop :=
  (∀ (code : OrderCode) (i : Index), codeValid code = true →
    (permInverse code).get ((permDecode code).get i) = i ∧ (permDecode code).get ((permInverse code).get i) = i) ∧
  (∀ code : OrderCode, codeValid code = false →
    permInverse code = ⟨0, 1, 2, 3⟩ ∧ permDecode code = ⟨0, 1, 2, 3⟩)

/-- R68: applying a valid permutation and then the inverse from its code restores every tuple; decoding instead of
inverting does not, for any permutation that is no involution, nor in the rule's counterexample with code 2. -/
def Obligations.InverseRestoresEveryTuple : Prop :=
  (∀ (p : Perm) (t : Tuple), isPerm p = true → applyPerm (applyPerm t p) (permInverse (permEncode p)) = t) ∧
  (∀ p : Perm, isPerm p = true → p ≠ permInverse (permEncode p) →
    ∃ t : Tuple, applyPerm (applyPerm t p) (permDecode (permEncode p)) ≠ t) ∧
  permDecode 2 = ⟨2, 3, 1, 0⟩ ∧ permInverse 2 = ⟨3, 2, 0, 1⟩ ∧
  applyPerm ⟨10, 20, 30, 40⟩ (permDecode 2) = ⟨30, 40, 20, 10⟩ ∧
  applyPerm ⟨30, 40, 20, 10⟩ (permInverse 2) = ⟨10, 20, 30, 40⟩ ∧
  applyPerm ⟨30, 40, 20, 10⟩ (permDecode 2) = ⟨20, 10, 40, 30⟩

/-- R69, with R62: PENC answers `(a << 3) | (b << 1) | c` of the array on `PA`, with `PERM_ERR` exactly when it is no permutation;
the corner cases and the example of the rule. -/
def Obligations.PencAnswersTheCode : Prop :=
  decodeOp 0x4 = .penc ∧
  (∀ s : State, ∃ bz : Byte,
    exec .penc s = .next (s.answer ⟨⟨0, 0, 0, 0⟩, 0, bz, 0, if isPerm (unpackPerm s.req.pa) then 0x00 else 0x02⟩) ∧
    bz.toNat = 8 * (s.req.pa.extractLsb' 6 2).toNat + 2 * (s.req.pa.extractLsb' 4 2).toNat +
      (if s.req.pa.extractLsb' 0 2 > s.req.pa.extractLsb' 2 2 then 1 else 0)) ∧
  [0xE4, 0x1B, 0x00, 0xE0, 0x78].map (fun pa => answerOf Config.nib1 { requestFor .penc with pa := pa }) =
    [some ⟨⟨0, 0, 0, 0⟩, 0, 0x1C, 0, 0x00⟩, some ⟨⟨0, 0, 0, 0⟩, 0, 0x03, 0, 0x00⟩,
      some ⟨⟨0, 0, 0, 0⟩, 0, 0x00, 0, 0x02⟩, some ⟨⟨0, 0, 0, 0⟩, 0, 0x1C, 0, 0x02⟩, some ⟨⟨0, 0, 0, 0⟩, 0, 0x0E, 0, 0x00⟩]

/-- R70: PDEC answers the permutation of the order-code `BA[4:0]` on `PZ`, with `CODE_ERR` exactly when the code is invalid; the
corner cases and the example of the rule. -/
def Obligations.PdecAnswersThePermutation : Prop :=
  decodeOp 0x5 = .pdec ∧
  (∀ s : State, exec .pdec s =
    .next (s.answer ⟨⟨0, 0, 0, 0⟩, packPerm (permDecode (s.req.ba.extractLsb' 0 5)), 0, 0,
      if codeValid (s.req.ba.extractLsb' 0 5) then 0x00 else 0x01⟩)) ∧
  [0x1C, 0x00, 0xFC, 0x02].map (fun ba => answerOf Config.nib1 { requestFor .pdec with ba := ba }) =
    [some ⟨⟨0, 0, 0, 0⟩, 0xE4, 0, 0, 0x00⟩, some ⟨⟨0, 0, 0, 0⟩, 0xE4, 0, 0, 0x01⟩,
      some ⟨⟨0, 0, 0, 0⟩, 0xE4, 0, 0, 0x00⟩, some ⟨⟨0, 0, 0, 0⟩, 0x1E, 0, 0, 0x00⟩]

/-- R71: PINV answers the inverse permutation of the order-code `BA[4:0]` on `PZ`, with `CODE_ERR` exactly when the code is
invalid; the corner cases and the example of the rule. -/
def Obligations.PinvAnswersTheInverse : Prop :=
  decodeOp 0x6 = .pinv ∧
  (∀ s : State, exec .pinv s =
    .next (s.answer ⟨⟨0, 0, 0, 0⟩, packPerm (permInverse (s.req.ba.extractLsb' 0 5)), 0, 0,
      if codeValid (s.req.ba.extractLsb' 0 5) then 0x00 else 0x01⟩)) ∧
  (∀ code : OrderCode, codeValid code = true → (∀ i : Index, (permDecode code).get ((permDecode code).get i) = i) →
    permInverse code = permDecode code) ∧
  [0x03, 0x02, 0x0E].map (fun ba => answerOf Config.nib1 { requestFor .pdec with ba := ba }) =
    [some ⟨⟨0, 0, 0, 0⟩, 0x1B, 0, 0, 0x00⟩, some ⟨⟨0, 0, 0, 0⟩, 0x1E, 0, 0, 0x00⟩, some ⟨⟨0, 0, 0, 0⟩, 0x78, 0, 0, 0x00⟩] ∧
  [0x02, 0x03, 0x0E, 0x00].map (fun ba => answerOf Config.nib1 { requestFor .pinv with ba := ba }) =
    [some ⟨⟨0, 0, 0, 0⟩, 0x4B, 0, 0, 0x00⟩, some ⟨⟨0, 0, 0, 0⟩, 0x1B, 0, 0, 0x00⟩,
      some ⟨⟨0, 0, 0, 0⟩, 0x9C, 0, 0, 0x00⟩, some ⟨⟨0, 0, 0, 0⟩, 0xE4, 0, 0, 0x01⟩]

/-! ### The delta transform and the header packer -/

/-- R74: (1) a non-decreasing tuple goes through both transforms and back without wrap; (2) every tuple comes back, and an
unsorted one sets `wrap` in both; (3) the base is bounded by its class; (4) for a non-decreasing tuple the deltas and the
threshold add up to the largest value without wrap. -/
def Obligations.DeltaLaws : Prop :=
  (∀ (T : ThrTable) (s : Tuple), T.legal = true → NonDecreasing s →
    (deltaFwd T s).wrap = false ∧ deltaInv T (deltaFwd T s).d (deltaFwd T s).cls = ⟨s, false⟩) ∧
  (∀ (T : ThrTable) (s : Tuple), T.legal = true →
    (deltaInv T (deltaFwd T s).d (deltaFwd T s).cls).s = s ∧
    (¬ NonDecreasing s → (deltaFwd T s).wrap = true ∧
      (deltaInv T (deltaFwd T s).d (deltaFwd T s).cls).wrap = true)) ∧
  (∀ (T : ThrTable) (s : Tuple), T.legal = true →
    (deltaFwd T s).d.e0 ≤ s.e0 ∧
    ((deltaFwd T s).cls < 7 →
      (deltaFwd T s).d.e0.toNat < (thr T ((deltaFwd T s).cls + 1)).toNat - (thr T (deltaFwd T s).cls).toNat)) ∧
  (∀ s : Tuple, (deltaFwd Config.nib1 s).cls = 0 → (deltaFwd Config.nib1 s).d.e0 ≤ 14) ∧
  (∀ (T : ThrTable) (s : Tuple), T.legal = true → NonDecreasing s →
    (deltaFwd T s).d.e0.toNat + (deltaFwd T s).d.e1.toNat + (deltaFwd T s).d.e2.toNat + (deltaFwd T s).d.e3.toNat +
      (thr T (deltaFwd T s).cls).toNat = s.e3.toNat)

/-- R75 and R76, with R30: the header byte is `code | (cls << 5)`; splitting is `(h[4:0], h[7:5])`; each undoes the other on all 256
values. -/
def Obligations.HeaderRoundTrip : Prop :=
  (∀ (code : OrderCode) (cls : OffsetClass),
    hdrPack code cls = code.setWidth 8 ||| (cls.setWidth 8 <<< 5) ∧ hdrUnpack (hdrPack code cls) = (code, cls)) ∧
  (∀ h : Byte, hdrUnpack h = (h.extractLsb' 0 5, h.extractLsb' 5 3) ∧ hdrPack (hdrUnpack h).1 (hdrUnpack h).2 = h)

/-- R77, with R72: DFWD answers the base `VA[0] - thr(class)` and the three differences modulo `2^32`, the class on `CZ`, and `WRAP`
exactly when `VA` is not non-decreasing; the corner cases and the example of the rule, under NIB1. -/
def Obligations.DfwdAnswersTheDeltas : Prop :=
  decodeOp 0x7 = .dfwd ∧
  (∀ s : State, exec .dfwd s =
    .next (s.answer ⟨⟨s.req.va.e0 - thr s.thr (bestClass s.thr s.req.va.e0), s.req.va.e1 - s.req.va.e0,
        s.req.va.e2 - s.req.va.e1, s.req.va.e3 - s.req.va.e2⟩, 0, 0, (bestClass s.thr s.req.va.e0).setWidth 8,
      if NonDecreasing s.req.va then 0x00 else 0x04⟩)) ∧
  (∀ e ∈ [((⟨0, 0, 0, 0⟩, ⟨⟨0, 0, 0, 0⟩, 0, 0, 0, 0⟩) : Tuple × Response),
      (⟨0xFFFFFFFF, 0xFFFFFFFF, 0xFFFFFFFF, 0xFFFFFFFF⟩, ⟨⟨0xF0000000, 0, 0, 0⟩, 0, 0, 7, 0⟩),
      (⟨15, 15, 16, 0xFFFFFFFF⟩, ⟨⟨0, 0, 1, 0xFFFFFFEF⟩, 0, 0, 1, 0⟩),
      (⟨5, 3, 3, 3⟩, ⟨⟨5, 0xFFFFFFFE, 0, 0⟩, 0, 0, 0, 4⟩),
      (⟨123, 123, 123, 234⟩, ⟨⟨108, 0, 0, 111⟩, 0, 0, 1, 0⟩)],
    answerOf Config.nib1 { requestFor .dfwd with va := e.1 } = some e.2)

/-- R78, with R73: DINV answers the four running sums from `VA[0] + thr(BB[2:0])` modulo `2^32`, and `WRAP` exactly when one of the
four additions reaches `2^32`; the corner cases and the example of the rule, under NIB1. -/
def Obligations.DinvAnswersTheSums : Prop :=
  decodeOp 0x8 = .dinv ∧
  (∀ s : State, ∃ s0 s1 s2 s3 : Word,
    s0 = s.req.va.e0 + thr s.thr (s.req.bb.extractLsb' 0 3) ∧ s1 = s0 + s.req.va.e1 ∧
    s2 = s1 + s.req.va.e2 ∧ s3 = s2 + s.req.va.e3 ∧
    exec .dinv s = .next (s.answer ⟨⟨s0, s1, s2, s3⟩, 0, 0, 0,
      if 2 ^ 32 ≤ s.req.va.e0.toNat + (thr s.thr (s.req.bb.extractLsb' 0 3)).toNat ∨
          2 ^ 32 ≤ s0.toNat + s.req.va.e1.toNat ∨ 2 ^ 32 ≤ s1.toNat + s.req.va.e2.toNat ∨
          2 ^ 32 ≤ s2.toNat + s.req.va.e3.toNat then 0x04 else 0x00⟩)) ∧
  (∀ (T : ThrTable) (k : OffsetClass), (deltaInv T ⟨0, 0, 0, 0⟩ k) = ⟨⟨thr T k, thr T k, thr T k, thr T k⟩, false⟩) ∧
  (∀ e ∈ [((⟨0xF0000000, 0, 0, 0⟩, 7, ⟨⟨0xFFFFFFFF, 0xFFFFFFFF, 0xFFFFFFFF, 0xFFFFFFFF⟩, 0, 0, 0, 0⟩) :
        Tuple × Byte × Response),
      (⟨0xF0000001, 0, 0, 0⟩, 7, ⟨⟨0, 0, 0, 0⟩, 0, 0, 0, 4⟩),
      (⟨0xFFFFFFFF, 1, 0, 0⟩, 0, ⟨⟨0xFFFFFFFF, 0, 0, 0⟩, 0, 0, 0, 4⟩),
      (⟨108, 0, 0, 111⟩, 1, ⟨⟨123, 123, 123, 234⟩, 0, 0, 0, 0⟩)],
    answerOf Config.nib1 { requestFor .dinv with va := e.1, bb := e.2.1 } = some e.2.2)

/-- R79: HPACK answers `code | (cls << 5)` of `BA[4:0]` and `BB[2:0]` on `BZ`, the higher operand bits ignored, with `CODE_ERR` exactly
when the code is invalid; the corner cases and the example of the rule. -/
def Obligations.HpackAnswersTheHeader : Prop :=
  decodeOp 0x9 = .hpack ∧
  (∀ s : State, exec .hpack s =
    .next (s.answer ⟨⟨0, 0, 0, 0⟩, 0, (s.req.ba &&& 0x1F) ||| ((s.req.bb &&& 0x07) <<< 5), 0,
      if codeValid (s.req.ba.extractLsb' 0 5) then 0x00 else 0x01⟩)) ∧
  [(0x1C, 0), (0x1C, 7), (0xFF, 0xFF), (0x0E, 7)].map
      (fun (ba, bb) => answerOf Config.nib1 { requestFor .hpack with ba := ba, bb := bb }) =
    [some ⟨⟨0, 0, 0, 0⟩, 0, 0x1C, 0, 0x00⟩, some ⟨⟨0, 0, 0, 0⟩, 0, 0xFC, 0, 0x00⟩,
      some ⟨⟨0, 0, 0, 0⟩, 0, 0xFF, 0, 0x01⟩, some ⟨⟨0, 0, 0, 0⟩, 0, 0xEE, 0, 0x00⟩]

/-- R80: HUNPK answers `BA[4:0]` on `BZ` and `BA[7:5]` on `CZ`, with `CODE_ERR` exactly when the code is invalid; the corner cases and
the example of the rule. -/
def Obligations.HunpkAnswersTheFields : Prop :=
  decodeOp 0xA = .hunpk ∧
  (∀ s : State, exec .hunpk s =
    .next (s.answer ⟨⟨0, 0, 0, 0⟩, 0, s.req.ba &&& 0x1F, s.req.ba >>> 5,
      if codeValid (s.req.ba.extractLsb' 0 5) then 0x00 else 0x01⟩)) ∧
  [0x00, 0xFF, 0xFD, 0x3C].map (fun ba => answerOf Config.nib1 { requestFor .hunpk with ba := ba }) =
    [some ⟨⟨0, 0, 0, 0⟩, 0, 0x00, 0, 0x01⟩, some ⟨⟨0, 0, 0, 0⟩, 0, 0x1F, 7, 0x01⟩,
      some ⟨⟨0, 0, 0, 0⟩, 0, 0x1D, 7, 0x00⟩, some ⟨⟨0, 0, 0, 0⟩, 0, 0x1C, 1, 0x00⟩]

/-! ### The block transform -/

/-- R83, with R81: ENC answers the header byte of the sorting permutation's code and the class of the smallest value, the class, the
permutation and the deltas of the sorted tuple, `ST = 0x00` for every input; `CZ` and `PZ` repeat the fields of `BZ`; the
corner cases and the example of the rule, under NIB1. -/
def Obligations.EncAnswersTheBlock : Prop :=
  decodeOp 0xB = .enc ∧
  (∀ s : State, ∃ (perm : Perm) (u : Tuple) (cls : OffsetClass),
    (perm, u) = sortPerm s.req.va ∧ cls = bestClass s.thr u.e0 ∧
    exec .enc s = .next (s.answer
      ⟨⟨u.e0 - thr s.thr cls, u.e1 - u.e0, u.e2 - u.e1, u.e3 - u.e2⟩, packPerm perm, hdrPack (permEncode perm) cls,
        cls.setWidth 8, 0⟩) ∧
    (hdrPack (permEncode perm) cls).extractLsb' 5 3 = cls ∧
    (hdrPack (permEncode perm) cls).extractLsb' 0 5 = permEncode (unpackPerm (packPerm perm))) ∧
  (∀ e ∈ [((⟨0, 0, 0, 0⟩, ⟨⟨0, 0, 0, 0⟩, 0x78, 0x0E, 0, 0⟩) : Tuple × Response),
      (⟨0xFFFFFFFF, 0xFFFFFFFF, 0xFFFFFFFF, 0xFFFFFFFF⟩, ⟨⟨0xF0000000, 0, 0, 0⟩, 0x78, 0xEE, 7, 0⟩),
      (⟨255, 0, 0, 0⟩, ⟨⟨0, 0, 0, 255⟩, 0x39, 0x06, 0, 0⟩),
      (⟨0x10000000, 0x10000001, 0xFFFFFFFF, 0x10000000⟩, ⟨⟨1, 0, 1, 0xEFFFFFFE⟩, 0x9C, 0xF2, 7, 0⟩),
      (⟨7, 6, 4, 3⟩, ⟨⟨3, 1, 2, 1⟩, 0x1B, 0x03, 0, 0⟩)],
    answerOf Config.nib1 { requestFor .enc with va := e.1 } = some e.2)

/-- R84, with R82: DEC answers the restored tuple `t[j] = s[inv[j]]` of the running sums, the inverse permutation, the code and the
class, with `CODE_ERR` for an invalid code and `WRAP` for a carry, both where both hold; the corner cases and the example of the
rule, under NIB1. -/
def Obligations.DecAnswersTheTuple : Prop :=
  decodeOp 0xC = .dec ∧
  (∀ s : State, ∃ (u : Tuple) (w : Bool) (inv : Perm),
    deltaInv s.thr s.req.va (s.req.ba.extractLsb' 5 3) = ⟨u, w⟩ ∧ inv = permInverse (s.req.ba.extractLsb' 0 5) ∧
    exec .dec s = .next (s.answer
      ⟨⟨u.get inv.e0, u.get inv.e1, u.get inv.e2, u.get inv.e3⟩, packPerm inv, s.req.ba &&& 0x1F, s.req.ba >>> 5,
        (if codeValid (s.req.ba.extractLsb' 0 5) then 0x00 else 0x01) ||| (if w then 0x04 else 0x00)⟩)) ∧
  (∀ e ∈ [((0x0E, ⟨0, 0, 0, 0⟩, ⟨⟨0, 0, 0, 0⟩, 0x9C, 0x0E, 0, 0⟩) : Byte × Tuple × Response),
      (0x00, ⟨1, 2, 3, 4⟩, ⟨⟨1, 3, 6, 10⟩, 0xE4, 0, 0, 1⟩),
      (0xE0, ⟨0xF0000001, 0, 0, 0⟩, ⟨⟨0, 0, 0, 0⟩, 0xE4, 0, 7, 5⟩),
      (0x3C, ⟨108, 0, 0, 111⟩, ⟨⟨123, 123, 123, 234⟩, 0xE4, 0x1C, 1, 0⟩),
      (0x03, ⟨3, 1, 2, 1⟩, ⟨⟨7, 6, 4, 3⟩, 0x1B, 0x03, 0, 0⟩)],
    answerOf Config.nib1 { requestFor .dec with ba := e.1, va := e.2.1 } = some e.2.2)

/-- R85: the response of ENC has the same `BZ`, `CZ`, `PZ` and `VZ` as SORT, DFWD, PENC and HPACK issued in order with each output handed
to the later operand; every response has `ST = 0x00`. -/
def Obligations.EncIsAComposition : Prop :=
  ∀ (s : State) (t : Tuple), s.thr.legal = true →
    ∃ (P C H K : Byte) (S D : Tuple) (s1 s2 s3 s4 s5 : State),
      issue { requestFor .sort with va := t } s = .ok (⟨S, P, 0, 0, 0⟩, s1) ∧
      issue { requestFor .dfwd with va := S } s1 = .ok (⟨D, 0, 0, K, 0⟩, s2) ∧
      issue { requestFor .penc with pa := P } s2 = .ok (⟨⟨0, 0, 0, 0⟩, 0, C, 0, 0⟩, s3) ∧
      issue { requestFor .hpack with ba := C, bb := K } s3 = .ok (⟨⟨0, 0, 0, 0⟩, 0, H, 0, 0⟩, s4) ∧
      issue { requestFor .enc with va := t } s4 = .ok (⟨D, P, H, K, 0⟩, s5)

/-- R86: the response of DEC has the same `VZ`, `PZ`, `BZ`, `CZ` and `ST` as HUNPK, DINV, PINV and PAPPLY issued in order with each output
handed to the later operand; its `ST` is the two status words together. -/
def Obligations.DecIsAComposition : Prop :=
  ∀ (s : State) (hdr : Byte) (m : Tuple), s.thr.legal = true →
    ∃ (C K Q E1 E2 : Byte) (S T : Tuple) (s1 s2 s3 s4 s5 : State),
      issue { requestFor .hunpk with ba := hdr } s = .ok (⟨⟨0, 0, 0, 0⟩, 0, C, K, E1⟩, s1) ∧
      issue { requestFor .dinv with va := m, bb := K } s1 = .ok (⟨S, 0, 0, 0, E2⟩, s2) ∧
      issue { requestFor .pinv with ba := C } s2 = .ok (⟨⟨0, 0, 0, 0⟩, Q, 0, 0, E1⟩, s3) ∧
      issue { requestFor .papply with va := S, pa := Q } s3 = .ok (⟨T, 0, 0, 0, 0⟩, s4) ∧
      issue { requestFor .dec with ba := hdr, va := m } s4 = .ok (⟨T, Q, C, K, E1 ||| E2⟩, s5)

/-- R87, over the core: for every legal table and every tuple, decoding what encoding gives returns the tuple with no error, for the
functions and for the operations ENC and DEC. -/
def Obligations.BlockRoundTrip : Prop :=
  (∀ (T : ThrTable) (t : Tuple), T.legal = true →
    (decodeBlock T (encodeBlock T t).hdr (encodeBlock T t).d).t = t ∧
    (decodeBlock T (encodeBlock T t).hdr (encodeBlock T t).d).cerr = false ∧
    (decodeBlock T (encodeBlock T t).hdr (encodeBlock T t).d).wrap = false) ∧
  (∀ (s : State) (t : Tuple), s.thr.legal = true →
    ∃ (H : Byte) (D : Tuple) (r r' : Response) (s1 s2 : State),
      issue { requestFor .enc with va := t } s = .ok (r, s1) ∧ r.bz = H ∧ r.vz = D ∧
      issue { requestFor .dec with ba := H, va := D } s1 = .ok (r', s2) ∧ r'.vz = t ∧ r'.st = 0)

/-- R88: every header byte that ENC answers has a valid order-code; of the 256 bytes 192 have one, and the other 64 are those whose
low five bits are 0, 1, 10, 11, 20, 21, 30 or 31; under NIB1 ENC answers each of the 192 for some tuple (a legal table with
`THR[7] = 0xFFFFFFFF` would give class 7 only with one code, so this clause is about the default table, log 17). -/
def Obligations.EncodedHeadersAreWellFormed : Prop :=
  (∀ s : State, ∃ r : Response, exec .enc s = .next (s.answer r) ∧ codeValid (hdrUnpack r.bz).1 = true) ∧
  (List.range 256).countP (fun h => codeValid (hdrUnpack (BitVec.ofNat 8 h)).1) = 192 ∧
  (∀ h : Byte, codeValid (hdrUnpack h).1 = false ↔ h.toNat % 32 ∈ [0, 1, 10, 11, 20, 21, 30, 31]) ∧
  (∀ h : Byte, codeValid (hdrUnpack h).1 = true → ∃ t : Tuple, (encodeBlock Config.nib1 t).hdr = h)

/-! ### Reserved opcodes and the host -/

/-- R37: each reserved `OP` answers all data outputs 0 and `ST.ILLOP` alone, whatever the operands. -/
def Obligations.ReservedOpcodesAnswerIllop : Prop :=
  decodeOp 0xD = .reservedD ∧ decodeOp 0xE = .reservedE ∧ decodeOp 0xF = .reservedF ∧
  ∀ s : State, ∀ i ∈ [Instr.reservedD, .reservedE, .reservedF],
    exec i s = .next (s.answer ⟨⟨0, 0, 0, 0⟩, 0, 0, 0, 0x08⟩)

/-- R87 with R22, R24 and R25: for every variable-length layer that keeps its law, host encode appends a block to the buffer whose
byte 0 is the header, and host decode of that block followed by any bytes returns the tuple and exactly those bytes. -/
def Obligations.HostRoundTrip : Prop :=
  ∀ (L : VarLayer) (t : Tuple) (buffer rest : List Byte) (s : State), s.thr.legal = true →
    ∃ (hdr : Byte) (d : Tuple) (s1 s2 : State),
      hostEncode L t buffer s = .ok (buffer ++ hdr :: L.payload d, s1) ∧
      codeValid (hdrUnpack hdr).1 = true ∧
      hostDecode L (hdr :: L.payload d ++ rest) s1 = .ok ((rest, t), s2)

/-- R26 and R90, with R25 and R88: an empty slice and one whose payload the layer finds short are reported by both host decodes in every
state, even one whose core would answer no request; on any other slice a validated decode rejects the block exactly when its
header's order-code is not one of the 24 legal values, and otherwise decodes it as DEC does. That the check is HUNPK's is log 13. -/
def Obligations.HostValidatesHeaders : Prop :=
  ∀ (L : VarLayer) (h : Byte) (bytes : List Byte) (s : State),
    (hostDecode L [] s = .error .emptySlice ∧ hostDecodeValidated L [] s = .error .emptySlice) ∧
    (L.decompress bytes = none →
      hostDecode L (h :: bytes) s = .error .shortPayload ∧ hostDecodeValidated L (h :: bytes) s = .error .shortPayload) ∧
    (∀ (rest : List Byte) (m : Tuple), s.thr.legal = true → L.decompress bytes = some (rest, m) →
      (codeValid (hdrUnpack h).1 = false → hostDecodeValidated L (h :: bytes) s = .error .malformedHeader) ∧
      (codeValid (hdrUnpack h).1 = true →
        ∃ s' : State, hostDecodeValidated L (h :: bytes) s = .ok ((rest, (decodeBlock s.thr h m).t), s')))
end

