-- ==== Sys2Proof/Laws/State.lean ====
section
/-! SUPPORT. One lemma per field per update of `State`, so that no proof unfolds a record update. -/

namespace Sys2Proof.Machine

@[simp] theorem State.answer_req (s : State) (r : Response) : (s.answer r).req = s.req := rfl
@[simp] theorem State.answer_resp (s : State) (r : Response) : (s.answer r).resp = r := rfl
@[simp] theorem State.answer_thr (s : State) (r : Response) : (s.answer r).thr = s.thr := rfl
@[simp] theorem State.answer_phase (s : State) (r : Response) : (s.answer r).phase = .answered := rfl
@[simp] theorem State.answer_response? (s : State) (r : Response) : (s.answer r).response? = some r := rfl
@[simp] theorem State.answer_fetchOp (s : State) (r : Response) : (s.answer r).fetchOp = s.fetchOp := rfl
@[simp] theorem State.answer_answer (s : State) (r r' : Response) : (s.answer r).answer r' = s.answer r' := rfl

@[simp] theorem State.present_req (s : State) (r : Request) : (s.present r).req = r := rfl
@[simp] theorem State.present_resp (s : State) (r : Request) : (s.present r).resp = s.resp := rfl
@[simp] theorem State.present_thr (s : State) (r : Request) : (s.present r).thr = s.thr := rfl
@[simp] theorem State.present_phase (s : State) (r : Request) : (s.present r).phase = .presented := rfl
@[simp] theorem State.present_response? (s : State) (r : Request) : (s.present r).response? = none := rfl
@[simp] theorem State.present_fetchOp (s : State) (r : Request) : (s.present r).fetchOp = r.op := rfl
@[simp] theorem State.present_present (s : State) (r r' : Request) : (s.present r).present r' = s.present r' := rfl

@[simp] theorem State.withTable_req (s : State) (T : ThrTable) : (s.withTable T).req = s.req := rfl
@[simp] theorem State.withTable_resp (s : State) (T : ThrTable) : (s.withTable T).resp = s.resp := rfl
@[simp] theorem State.withTable_thr (s : State) (T : ThrTable) : (s.withTable T).thr = T := rfl
@[simp] theorem State.withTable_phase (s : State) (T : ThrTable) : (s.withTable T).phase = s.phase := rfl

@[simp] theorem State.withFetchWord_resp (s : State) (k w : Nat) : (s.withFetchWord k w).resp = s.resp := rfl
@[simp] theorem State.withFetchWord_thr (s : State) (k w : Nat) : (s.withFetchWord k w).thr = s.thr := rfl
@[simp] theorem State.withFetchWord_phase (s : State) (k w : Nat) : (s.withFetchWord k w).phase = .presented := rfl
@[simp] theorem State.withFetchWord_va (s : State) (k w : Nat) : (s.withFetchWord k w).req.va = s.req.va := rfl
@[simp] theorem State.withFetchWord_pa (s : State) (k w : Nat) : (s.withFetchWord k w).req.pa = s.req.pa := rfl
@[simp] theorem State.withFetchWord_ba (s : State) (k w : Nat) : (s.withFetchWord k w).req.ba = s.req.ba := rfl
@[simp] theorem State.withFetchWord_bb (s : State) (k w : Nat) : (s.withFetchWord k w).req.bb = s.req.bb := rfl
@[simp] theorem State.withFetchWord_fetchOp (s : State) (k w : Nat) :
    (s.withFetchWord k w).fetchOp = (BitVec.ofNat k w).setWidth 4 := rfl


end Sys2Proof.Machine
end

