-- ==== Sys2Proof/Laws/Ops.lean ====
section
/-! SUPPORT. For each shared operation, what it can do, said once: the status word, the guarded answer, the step, the issue of a
request, and the packed operands. -/

namespace Sys2Proof.Machine

/-- `raise` sets its own bit when the cause holds and leaves the other named bits. -/
theorem statusOf_raise (st : Byte) (b b' : StatusBit) (cond : Bool) :
    statusOf (raise b cond st) b' = (statusOf st b' || (decide (b = b') && cond)) := by
  cases b <;> cases b' <;> cases cond <;> simp [statusOf, raise, statusPos]

/-- From a status word of 0, `raise` gives the bit's mask or 0. -/
theorem raise_zero (b : StatusBit) (cond : Bool) :
    raise b cond 0 = if cond then 1#8 <<< statusPos b else 0#8 := by
  cases cond <;> simp [raise]

/-- A guarded answer that goes on is an answer, and its guard held. -/
theorem answerIfEnumerated_next (s t : State) (e : Bool) (r : Response) :
    s.answerIfEnumerated e r = .next t ↔ e = true ∧ t = s.answer r := by
  cases e <;> simp [State.answerIfEnumerated, eq_comm]

@[simp] theorem answerIfEnumerated_true (s : State) (r : Response) :
    s.answerIfEnumerated true r = .next (s.answer r) := rfl

/-- What a step that goes on can be: an answered request, or a wait that changes nothing. -/
theorem step_next_cases {s t : State} (h : step s = .next t) :
    s.thr.legal = true ∧
      ((s.phase = .presented ∧ exec (decodeOp s.fetchOp) s = .next t) ∨ (s.phase ≠ .presented ∧ t = s)) := by
  unfold step at h
  split at h
  · rename_i hl
    refine ⟨hl, ?_⟩
    split at h
    · exact .inl ⟨‹_›, h⟩
    · rename_i hp
      exact .inr ⟨by simp [hp], by cases h; rfl⟩
    · rename_i hp
      exact .inr ⟨by simp [hp], by cases h; rfl⟩
  · cases h

/-- A step that refuses does so for the table alone, or the meaning it runs refuses. -/
theorem step_presented {s : State} (hl : s.thr.legal = true) (hp : s.phase = .presented) :
    step s = exec (decodeOp s.fetchOp) s := by
  simp [step, hl, hp]

/-- A request that a legal core's meaning answers is issued with that answer. -/
theorem issue_of_exec {s : State} {r : Request} {resp : Response} (hl : s.thr.legal = true)
    (h : exec (decodeOp r.op) (s.present r) = .next ((s.present r).answer resp)) :
    issue r s = .ok (resp, (s.present r).answer resp) := by
  simp [issue, step_presented (s := s.present r) (by simpa using hl) rfl, h]

/-- Unpacking a packed permutation gives it back (R32). -/
@[simp] theorem unpackPerm_packPerm (p : Perm) : unpackPerm (packPerm p) = p := by
  obtain ⟨a, b, c, d⟩ := p
  revert a b c d
  decide

/-- The three fields of a packed order-code (R31). -/
@[simp] theorem codeA_packCode (a b : Index) (c : BitVec 1) : codeA (packCode a b c) = a := by
  revert a b c; decide
@[simp] theorem codeB_packCode (a b : Index) (c : BitVec 1) : codeB (packCode a b c) = b := by
  revert a b c; decide
@[simp] theorem codeC_packCode (a b : Index) (c : BitVec 1) : codeC (packCode a b c) = c := by
  revert a b c; decide

/-- Reading an element after writing one (R1). -/
theorem Quad_get_set {α : Type} (q : Quad α) (i j : Index) (x : α) :
    (q.set i x).get j = if i = j then x else q.get j := by
  have : ∀ k : Index, k = 0#2 ∨ k = 1#2 ∨ k = 2#2 ∨ k = 3#2 := by decide
  rcases this i with rfl | rfl | rfl | rfl <;> rcases this j with rfl | rfl | rfl | rfl <;> rfl

/-- The elements of a gather (R52). -/
@[simp] theorem applyPerm_get (t : Tuple) (p : Perm) (i : Index) : (applyPerm t p).get i = t.get (p.get i) := by
  have : i = 0#2 ∨ i = 1#2 ∨ i = 2#2 ∨ i = 3#2 := by revert i; decide
  rcases this with rfl | rfl | rfl | rfl <;> rfl

end Sys2Proof.Machine
end

