-- ==== Sys2Proof/Laws/PerInstr.lean ====
section
/-! SUPPORT. What holds of every operation as it is written down: its request word fits the 4 bits of `OP` (R35). -/

namespace Sys2Proof.Laws

/-- The operation is well-formed and its request word is one byte with bits 7:4 clear. -/
def WordFits.Statement (i : Instr) : Prop :=
  i.wellFormed = true ∧ (encode i).length = 1 ∧ ∀ b ∈ encode i, b.toNat < 16

theorem WordFits.thr : WordFits.Statement .thr := by unfold WordFits.Statement; decide
theorem WordFits.cls : WordFits.Statement .cls := by unfold WordFits.Statement; decide
theorem WordFits.sort : WordFits.Statement .sort := by unfold WordFits.Statement; decide
theorem WordFits.papply : WordFits.Statement .papply := by unfold WordFits.Statement; decide
theorem WordFits.penc : WordFits.Statement .penc := by unfold WordFits.Statement; decide
theorem WordFits.pdec : WordFits.Statement .pdec := by unfold WordFits.Statement; decide
theorem WordFits.pinv : WordFits.Statement .pinv := by unfold WordFits.Statement; decide
theorem WordFits.dfwd : WordFits.Statement .dfwd := by unfold WordFits.Statement; decide
theorem WordFits.dinv : WordFits.Statement .dinv := by unfold WordFits.Statement; decide
theorem WordFits.hpack : WordFits.Statement .hpack := by unfold WordFits.Statement; decide
theorem WordFits.hunpk : WordFits.Statement .hunpk := by unfold WordFits.Statement; decide
theorem WordFits.enc : WordFits.Statement .enc := by unfold WordFits.Statement; decide
theorem WordFits.dec : WordFits.Statement .dec := by unfold WordFits.Statement; decide
theorem WordFits.reservedD : WordFits.Statement .reservedD := by unfold WordFits.Statement; decide
theorem WordFits.reservedE : WordFits.Statement .reservedE := by unfold WordFits.Statement; decide
theorem WordFits.reservedF : WordFits.Statement .reservedF := by unfold WordFits.Statement; decide

end Sys2Proof.Laws
end

