-- ==== Sys2Proof/Laws/Units.lean ====
section
/-! SUPPORT. The small lemmas of the units' functions: element access at each index, case splits over the four indices and the eight
classes, the legal table as inequalities, the classifier as a cascade, and the components of `sortPerm` and `encodeBlock`. -/

namespace Sys2Proof.Machine

@[simp] theorem Quad_get_zero {α : Type} (q : Quad α) : q.get 0#2 = q.e0 := rfl
@[simp] theorem Quad_get_one {α : Type} (q : Quad α) : q.get 1#2 = q.e1 := rfl
@[simp] theorem Quad_get_two {α : Type} (q : Quad α) : q.get 2#2 = q.e2 := rfl
@[simp] theorem Quad_get_three {α : Type} (q : Quad α) : q.get 3#2 = q.e3 := rfl

/-- An index is one of four. -/
theorem index_cases (i : Index) : i = 0#2 ∨ i = 1#2 ∨ i = 2#2 ∨ i = 3#2 := by revert i; decide

/-- What holds of each of the four indices holds of all. -/
theorem forall_index {P : Index → Prop} : (∀ i, P i) ↔ P 0#2 ∧ P 1#2 ∧ P 2#2 ∧ P 3#2 := by
  refine ⟨fun h => ⟨h _, h _, h _, h _⟩, fun ⟨h0, h1, h2, h3⟩ i => ?_⟩
  rcases index_cases i with rfl | rfl | rfl | rfl <;> assumption

/-- Two quads with the same elements are the same. -/
theorem Quad_ext_get {α : Type} {p q : Quad α} (h : ∀ i, p.get i = q.get i) : p = q := by
  obtain ⟨h0, h1, h2, h3⟩ := forall_index.1 h
  cases p; cases q
  simp only [Quad_get_zero, Quad_get_one, Quad_get_two, Quad_get_three] at h0 h1 h2 h3
  simp [h0, h1, h2, h3]

/-- A class is one of eight. -/
theorem class_cases (k : OffsetClass) :
    k = 0#3 ∨ k = 1#3 ∨ k = 2#3 ∨ k = 3#3 ∨ k = 4#3 ∨ k = 5#3 ∨ k = 6#3 ∨ k = 7#3 := by revert k; decide

/-- What holds of each of the eight classes holds of all. -/
theorem forall_class {P : OffsetClass → Prop} :
    (∀ k, P k) ↔ P 0#3 ∧ P 1#3 ∧ P 2#3 ∧ P 3#3 ∧ P 4#3 ∧ P 5#3 ∧ P 6#3 ∧ P 7#3 := by
  refine ⟨fun h => ⟨h _, h _, h _, h _, h _, h _, h _, h _⟩, fun ⟨h0, h1, h2, h3, h4, h5, h6, h7⟩ k => ?_⟩
  rcases class_cases k with rfl | rfl | rfl | rfl | rfl | rfl | rfl | rfl <;> assumption

/-- A legal table as one chain of inequalities (R44). -/
theorem legal_iff (T : ThrTable) :
    T.legal = true ↔ T.t0 = 0 ∧ T.t0 < T.t1 ∧ T.t1 < T.t2 ∧ T.t2 < T.t3 ∧ T.t3 < T.t4 ∧ T.t4 < T.t5 ∧
      T.t5 < T.t6 ∧ T.t6 < T.t7 := by
  simp [ThrTable.legal, ThrTable.startsAtZero, ThrTable.increasing, and_assoc]

/-- The downward scan of R46 as a cascade. -/
theorem bestClass_eq (T : ThrTable) (n : Word) :
    bestClass T n =
      if T.t7 ≤ n then 7 else if T.t6 ≤ n then 6 else if T.t5 ≤ n then 5 else if T.t4 ≤ n then 4
      else if T.t3 ≤ n then 3 else if T.t2 ≤ n then 2 else if T.t1 ≤ n then 1 else 0 := by
  unfold bestClass classesDown
  simp only [List.find?, thr]
  simp +decide only [↓reduceIte]
  by_cases h7 : T.t7 ≤ n
  · simp [h7]
  by_cases h6 : T.t6 ≤ n
  · simp [h7, h6]
  by_cases h5 : T.t5 ≤ n
  · simp [h7, h6, h5]
  by_cases h4 : T.t4 ≤ n
  · simp [h7, h6, h5, h4]
  by_cases h3 : T.t3 ≤ n
  · simp [h7, h6, h5, h4, h3]
  by_cases h2 : T.t2 ≤ n
  · simp [h7, h6, h5, h4, h3, h2]
  by_cases h1 : T.t1 ≤ n
  · simp [h7, h6, h5, h4, h3, h2, h1]
  by_cases h0 : T.t0 ≤ n <;> simp [h7, h6, h5, h4, h3, h2, h1, h0]

/-- `carry` as a proposition (R3). -/
@[simp] theorem carry_iff (x y : Word) : carry x y = true ↔ 2 ^ 32 ≤ x.toNat + y.toNat := by simp [carry]

/-- `borrow` as a proposition (R3). -/
@[simp] theorem borrow_iff (x y : Word) : borrow x y = true ↔ x < y := by simp [borrow, BitVec.lt_def]

/-- Adding back what was subtracted carries exactly when the subtraction borrowed (R3). -/
theorem carry_sub32 (x y : Word) : carry (sub32 x y) y = borrow x y := by
  rw [Bool.eq_iff_iff, carry_iff, borrow_iff]
  simp only [sub32, BitVec.toNat_sub, BitVec.lt_def]
  omega

/-- The same with the addends exchanged. -/
theorem carry_comm (x y : Word) : carry x y = carry y x := by
  simp only [carry, Nat.add_comm]

@[simp] theorem sortPerm_fst (t : Tuple) : (sortPerm t).1 = sortPermIdx t := by simp only [sortPerm]
@[simp] theorem sortPerm_snd (t : Tuple) : (sortPerm t).2 = applyPerm t (sortPermIdx t) := by simp only [sortPerm]

/-- The fields of an encoded block (R81). -/
theorem encodeBlock_eq (T : ThrTable) (t : Tuple) :
    encodeBlock T t =
      ⟨hdrPack (permEncode (sortPerm t).1) (bestClass T (sortPerm t).2.e0), (deltaFwd T (sortPerm t).2).d,
        (sortPerm t).1, bestClass T (sortPerm t).2.e0⟩ := by
  simp only [encodeBlock, deltaFwd]

/-- The fields of a decoded block (R82). -/
theorem decodeBlock_eq (T : ThrTable) (h : Byte) (m : Tuple) :
    decodeBlock T h m =
      ⟨applyPerm (deltaInv T m (hdrUnpack h).2).s (permInverse (hdrUnpack h).1), permInverse (hdrUnpack h).1,
        (hdrUnpack h).1, (hdrUnpack h).2, !codeValid (hdrUnpack h).1, (deltaInv T m (hdrUnpack h).2).wrap⟩ := by
  simp only [decodeBlock]

end Sys2Proof.Machine
end

