-- ==== Sys2Proof/Machine/Assembly.lean ====
section
/-! DEFINITION. The written form of requests and responses (`30_encoding.md` R39), as characters. It has no effect on any output;
number forms follow the conventions of `95_test_vectors.md` (DESIGN CHOICE where R39 gives no form, log 14). -/

namespace Sys2Proof.Machine

/-- The mnemonic of an operation (R36); a reserved `OP` is written by its value (`95_test_vectors.md` §2.14). -/
def mnemonicChars : Instr → List Char
  | .thr => ['T', 'H', 'R']
  | .cls => ['C', 'L', 'S']
  | .sort => ['S', 'O', 'R', 'T']
  | .papply => ['P', 'A', 'P', 'P', 'L', 'Y']
  | .penc => ['P', 'E', 'N', 'C']
  | .pdec => ['P', 'D', 'E', 'C']
  | .pinv => ['P', 'I', 'N', 'V']
  | .dfwd => ['D', 'F', 'W', 'D']
  | .dinv => ['D', 'I', 'N', 'V']
  | .hpack => ['H', 'P', 'A', 'C', 'K']
  | .hunpk => ['H', 'U', 'N', 'P', 'K']
  | .enc => ['E', 'N', 'C']
  | .dec => ['D', 'E', 'C']
  | .reservedD => ['O', 'P', '=', '0', 'x', 'D']
  | .reservedE => ['O', 'P', '=', '0', 'x', 'E']
  | .reservedF => ['O', 'P', '=', '0', 'x', 'F']

/-- One hexadecimal digit, upper case. -/
def hexDigit (n : Nat) : Char :=
  (['0', '1', '2', '3', '4', '5', '6', '7', '8', '9', 'A', 'B', 'C', 'D', 'E', 'F'].getD (n % 16) '0')

/-- The last `k` hexadecimal digits of a number, the most significant first. -/
def hexDigits : Nat → Nat → List Char
  | 0, _ => []
  | k + 1, n => hexDigits k (n / 16) ++ [hexDigit n]

/-- A number in hexadecimal with `k` digits. -/
def hexChars (k n : Nat) : List Char := '0' :: 'x' :: hexDigits k n

/-- Decimal digits, at most `k`, without leading zeros. -/
def decDigits : Nat → Nat → List Char
  | 0, _ => []
  | k + 1, n => (if n < 10 then [] else decDigits k (n / 10)) ++ [hexDigit (n % 10)]

/-- "Values up to 65535 are decimal; larger values are 8-digit hex" (`95_test_vectors.md`, conventions). -/
def wordChars (w : Word) : List Char :=
  if w.toNat ≤ 65535 then decDigits 5 w.toNat else hexChars 8 w.toNat

/-- A byte as two hexadecimal digits. -/
def byteChars (b : Byte) : List Char := hexChars 2 b.toNat

/-- A class: one decimal digit, or the byte in hexadecimal when bits 7:3 are not 0. -/
def classChars (b : Byte) : List Char := if b.toNat ≤ 7 then decDigits 1 b.toNat else byteChars b

/-- `[v0,v1,v2,v3]`. -/
def quadChars {α : Type} (f : α → List Char) (q : Quad α) : List Char :=
  '[' :: f q.e0 ++ ',' :: f q.e1 ++ ',' :: f q.e2 ++ ',' :: f q.e3 ++ [']']

/-- A permutation port: the array and the packed byte. -/
def permChars (b : Byte) : List Char :=
  quadChars (fun i : Index => decDigits 1 i.toNat) (unpackPerm b) ++ ' ' :: '(' :: byteChars b ++ [')']

/-- Items separated by a comma and a space. -/
def commaChars : List (List Char) → List Char
  | [] => []
  | [x] => x
  | x :: y :: rest => x ++ ',' :: ' ' :: commaChars (y :: rest)

/-- `MNEMONIC port=value, ...`, naming only the ports the operation reads (R39), in the order of R36's Reads column: DEC's header
byte stands before its vector. -/
def requestChars (i : Instr) (r : Request) : List Char :=
  let m := readMask i
  let va := if m.va = ⟨0, 0, 0, 0⟩ then [] else ['V' :: 'A' :: '=' :: quadChars wordChars r.va]
  let ba := if m.ba = 0 then [] else ['B' :: 'A' :: '=' :: byteChars r.ba]
  let ports :=
    (if i = .dec then ba ++ va else va) ++
    (if m.pa = 0 then [] else ['P' :: 'A' :: '=' :: permChars r.pa]) ++
    (if i = .dec then [] else ba) ++
    (if m.bb = 0 then [] else ['B' :: 'B' :: '=' :: classChars r.bb])
  if ports = [] then mnemonicChars i else mnemonicChars i ++ ' ' :: commaChars ports

/-- `-> port=value, ...`, naming every non-zero output and `ST` (R39). -/
def responseChars (r : Response) : List Char :=
  let ports :=
    (if r.vz = ⟨0, 0, 0, 0⟩ then [] else ['V' :: 'Z' :: '=' :: quadChars wordChars r.vz]) ++
    (if r.pz = 0 then [] else ['P' :: 'Z' :: '=' :: permChars r.pz]) ++
    (if r.bz = 0 then [] else ['B' :: 'Z' :: '=' :: byteChars r.bz]) ++
    (if r.cz = 0 then [] else ['C' :: 'Z' :: '=' :: classChars r.cz]) ++
    ['S' :: 'T' :: '=' :: byteChars r.st]
  '-' :: '>' :: ' ' :: commaChars ports

end Sys2Proof.Machine
end

