-- ==== Sys2Proof/Tests/Slice0.lean ====
section
/-! SUPPORT. The model's own tests. V<n> and E<n> are the vectors and examples of `95_test_vectors.md`, Program <n> its §3; every expected
result is the spec's. Last, the witnesses: for each statement with hypotheses, states and operands that meet them. -/

namespace Sys2Proof.Machine

/-! ### Well-formedness: each check refuses an ill-formed table -/

/-- R44's first condition: `THR[0]` is 1. -/
def tableNotFromZero : ThrTable := { Config.nib1 with t0 := 1 }
/-- R44's second condition: `THR[3] = THR[4]`. -/
def tableNotIncreasing : ThrTable := { Config.nib1 with t3 := 0x0000FFFF }
/-- A legal table that is not the default one; its top entry is the largest word (log 15). -/
def steepTable : ThrTable := ⟨0, 1, 2, 3, 4, 5, 6, 0xFFFFFFFF⟩

theorem test_wellFormed_starts_at_zero :
    tableNotFromZero.startsAtZero = false ∧ tableNotFromZero.increasing = true ∧ tableNotFromZero.legal = false := by decide
theorem test_wellFormed_increasing :
    tableNotIncreasing.startsAtZero = true ∧ tableNotIncreasing.increasing = false ∧ tableNotIncreasing.legal = false := by decide
theorem test_wellFormed_legal : Config.nib1.legal = true ∧ steepTable.legal = true := by decide
theorem test_illegal_table_refused :
    (step ((State.reset.withTable tableNotIncreasing).present (requestFor .cls)) matches .refused .illegalThresholdTable) = true := by
  decide
theorem test_wellFormed_every_operation : ∀ i : Instr, i.wellFormed = true := by intro i; cases i <;> rfl

/-! ### Decoding: one word for each constructor, from the table of R36 -/

theorem test_decode_thr : decode [0b00000000#8] = .ok (.thr, []) := by rfl
theorem test_decode_cls : decode [0b00000001#8] = .ok (.cls, []) := by rfl
theorem test_decode_sort : decode [0b00000010#8] = .ok (.sort, []) := by rfl
theorem test_decode_papply : decode [0b00000011#8] = .ok (.papply, []) := by rfl
theorem test_decode_penc : decode [0b00000100#8] = .ok (.penc, []) := by rfl
theorem test_decode_pdec : decode [0b00000101#8] = .ok (.pdec, []) := by rfl
theorem test_decode_pinv : decode [0b00000110#8] = .ok (.pinv, []) := by rfl
theorem test_decode_dfwd : decode [0b00000111#8] = .ok (.dfwd, []) := by rfl
theorem test_decode_dinv : decode [0b00001000#8] = .ok (.dinv, []) := by rfl
theorem test_decode_hpack : decode [0b00001001#8] = .ok (.hpack, []) := by rfl
theorem test_decode_hunpk : decode [0b00001010#8] = .ok (.hunpk, []) := by rfl
theorem test_decode_enc : decode [0b00001011#8] = .ok (.enc, []) := by rfl
theorem test_decode_dec : decode [0b00001100#8] = .ok (.dec, []) := by rfl
theorem test_decode_reservedD : decode [0b00001101#8] = .ok (.reservedD, []) := by rfl
theorem test_decode_reservedE : decode [0b00001110#8] = .ok (.reservedE, []) := by rfl
theorem test_decode_reservedF : decode [0b00001111#8] = .ok (.reservedF, []) := by rfl
theorem test_decode_nothing : decode [] = .error .noRequestWord := by rfl
theorem test_decode_leaves_the_rest : decode [0x0B#8, 0xFF#8] = .ok (.enc, [0xFF#8]) := by rfl

theorem test_decodeTableWord : decodeTableWord 8 0xC = some .dec ∧ decodeTableWord 8 0xD = some .reservedD := by decide
theorem test_withFetchWord :
    (step (State.reset.withFetchWord 8 0xB) matches .next _) = true ∧ (State.reset.withFetchWord 8 0xB).req.op = 0xB := by decide

/-! ### One request each (at most two an operation), from reset with the default table -/

/-- The response just after reset to operation `i`, its operands given by `f`. -/
def ask (i : Instr) (f : Request → Request) : Option Response := answerOf Config.nib1 (f (requestFor i))

theorem test_thr_V8 : ask .thr ({ · with bb := 7 }) = some ⟨⟨0x0FFFFFFF, 0, 0, 0⟩, 0, 0, 0, 0x00⟩ := by decide
theorem test_thr_V9_ignores_high_bits : ask .thr ({ · with bb := 0xFB }) = some ⟨⟨4095, 0, 0, 0⟩, 0, 0, 0, 0x00⟩ := by decide
theorem test_cls_V23 : ask .cls ({ · with va := ⟨0x0FFFFFFE, 0, 0, 0⟩ }) = some ⟨⟨0, 0, 0, 0⟩, 0, 0, 6, 0x00⟩ := by decide
theorem test_cls_V26_ignores_other_elements :
    ask .cls ({ · with va := ⟨123, 0xFFFFFFFF, 0xFFFFFFFF, 0xFFFFFFFF⟩ }) = some ⟨⟨0, 0, 0, 0⟩, 0, 0, 1, 0x00⟩ := by decide
theorem test_sort_V37_tie : ask .sort ({ · with va := ⟨3, 1, 4, 1⟩ }) = some ⟨⟨1, 1, 3, 4⟩, 0x8D, 0, 0, 0x00⟩ := by decide
theorem test_sort_V40_unsigned :
    ask .sort ({ · with va := ⟨0x80000000, 0x7FFFFFFF, 1, 0⟩ }) = some ⟨⟨0, 1, 0x7FFFFFFF, 0x80000000⟩, 0x1B, 0, 0, 0x00⟩ := by decide
theorem test_papply_V67 :
    ask .papply ({ · with va := ⟨10, 20, 30, 40⟩, pa := 0x1E }) = some ⟨⟨30, 40, 20, 10⟩, 0, 0, 0, 0x00⟩ := by decide
theorem test_papply_V73_invalid :
    ask .papply ({ · with va := ⟨10, 20, 30, 40⟩, pa := 0xA4 }) = some ⟨⟨10, 20, 30, 30⟩, 0, 0, 0, 0x02⟩ := by decide
theorem test_penc_V94 : ask .penc ({ · with pa := 0x87 }) = some ⟨⟨0, 0, 0, 0⟩, 0, 0x11, 0, 0x00⟩ := by decide
theorem test_penc_V100_invalid : ask .penc ({ · with pa := 0xFF }) = some ⟨⟨0, 0, 0, 0⟩, 0, 0x1E, 0, 0x02⟩ := by decide
theorem test_pdec_V106 : ask .pdec ({ · with ba := 0x12 }) = some ⟨⟨0, 0, 0, 0⟩, 0x9C, 0, 0, 0x00⟩ := by decide
theorem test_pdec_V110_invalid : ask .pdec ({ · with ba := 0x35 }) = some ⟨⟨0, 0, 0, 0⟩, 0xE4, 0, 0, 0x01⟩ := by decide
theorem test_pinv_V118 : ask .pinv ({ · with ba := 0xF2 }) = some ⟨⟨0, 0, 0, 0⟩, 0x78, 0, 0, 0x00⟩ := by decide
theorem test_pinv_V120_invalid : ask .pinv ({ · with ba := 0x1E }) = some ⟨⟨0, 0, 0, 0⟩, 0xE4, 0, 0, 0x01⟩ := by decide
theorem test_dfwd_V126 :
    ask .dfwd ({ · with va := ⟨15, 15, 16, 0xFFFFFFFF⟩ }) = some ⟨⟨0, 0, 1, 0xFFFFFFEF⟩, 0, 0, 1, 0x00⟩ := by decide
theorem test_dfwd_V132_one_borrow :
    ask .dfwd ({ · with va := ⟨0, 0xFFFFFFFF, 0, 0xFFFFFFFF⟩ }) = some ⟨⟨0, 0xFFFFFFFF, 1, 0xFFFFFFFF⟩, 0, 0, 0, 0x04⟩ := by decide
theorem test_dinv_V138_one_carry :
    ask .dinv ({ · with va := ⟨0, 0xFFFFFFFF, 1, 0⟩ }) = some ⟨⟨0, 0xFFFFFFFF, 0, 0⟩, 0, 0, 0, 0x04⟩ := by decide
theorem test_dinv_V140_ignores_high_bits :
    ask .dinv ({ · with va := ⟨1, 0, 0, 0⟩, bb := 0xF9 }) = some ⟨⟨16, 16, 16, 16⟩, 0, 0, 0, 0x00⟩ := by decide
theorem test_hpack_V146_ignores_high_bits :
    ask .hpack ({ · with ba := 0x3B, bb := 1 }) = some ⟨⟨0, 0, 0, 0⟩, 0, 0x3B, 0, 0x00⟩ := by decide
theorem test_hpack_V148_invalid :
    ask .hpack ({ · with ba := 0xFF, bb := 0xFF }) = some ⟨⟨0, 0, 0, 0⟩, 0, 0xFF, 0, 0x01⟩ := by decide
theorem test_hunpk_V152 : ask .hunpk ({ · with ba := 0xF2 }) = some ⟨⟨0, 0, 0, 0⟩, 0, 0x12, 7, 0x00⟩ := by decide
theorem test_hunpk_V157_invalid : ask .hunpk ({ · with ba := 0x74 }) = some ⟨⟨0, 0, 0, 0⟩, 0, 0x14, 3, 0x01⟩ := by decide
theorem test_enc_V169 :
    ask .enc ({ · with va := ⟨4096, 0x00011170, 16, 0x10000000⟩ }) =
      some ⟨⟨1, 4080, 0x00010170, 0x0FFEEE90⟩, 0xD2, 0x3B, 1, 0x00⟩ := by decide
theorem test_enc_V171 : ask .enc ({ · with va := ⟨15, 14, 255, 254⟩ }) = some ⟨⟨14, 1, 239, 1⟩, 0xB1, 0x17, 0, 0x00⟩ := by decide
theorem test_dec_V184 :
    ask .dec ({ · with ba := 0x3B, va := ⟨1, 4080, 0x00010170, 0x0FFEEE90⟩ }) =
      some ⟨⟨4096, 0x00011170, 16, 0x10000000⟩, 0xC9, 0x1B, 1, 0x00⟩ := by decide
theorem test_dec_V189_two_causes :
    ask .dec ({ · with ba := 0xE0, va := ⟨0xF0000001, 0, 0, 0⟩ }) = some ⟨⟨0, 0, 0, 0⟩, 0xE4, 0, 7, 0x05⟩ := by decide
theorem test_reservedD_V192_ignores_operands :
    ask .reservedD ({ · with va := ⟨1, 2, 3, 4⟩, pa := 0xE4, ba := 0x1C, bb := 7 }) = some ⟨⟨0, 0, 0, 0⟩, 0, 0, 0, 0x08⟩ := by decide
theorem test_reservedE_V193 : ask .reservedE id = some ⟨⟨0, 0, 0, 0⟩, 0, 0, 0, 0x08⟩ := by decide
theorem test_reservedF_V194 : ask .reservedF id = some ⟨⟨0, 0, 0, 0⟩, 0, 0, 0, 0x08⟩ := by decide

/-! ### The written form (R39's own examples) -/

theorem test_written_sort :
    requestChars .sort { requestFor .sort with va := ⟨7, 6, 4, 3⟩ } = "SORT VA=[7,6,4,3]".toList ∧
    (ask .sort ({ · with va := ⟨7, 6, 4, 3⟩ })).map responseChars = some "-> VZ=[3,4,6,7], PZ=[3,2,1,0] (0x1B), ST=0x00".toList := by
  decide
theorem test_written_hpack :
    requestChars .hpack { requestFor .hpack with ba := 0x03 } = "HPACK BA=0x03, BB=0".toList ∧
    (ask .hpack ({ · with ba := 0x03 })).map responseChars = some "-> BZ=0x03, ST=0x00".toList := by decide

/-! ### The host, with a layer of sixteen bytes a block -/

/-- The four bytes of a word, the most significant first. -/
def wordToBytes (w : Word) : List Byte := [w.extractLsb' 24 8, w.extractLsb' 16 8, w.extractLsb' 8 8, w.extractLsb' 0 8]

/-- The word of four bytes, the most significant first. -/
def bytesToWord (a b c d : Byte) : Word := a ++ b ++ c ++ d

theorem bytesToWord_extract (w : Word) :
    bytesToWord (w.extractLsb' 24 8) (w.extractLsb' 16 8) (w.extractLsb' 8 8) (w.extractLsb' 0 8) = w := by
  unfold bytesToWord
  ext i hi
  simp only [BitVec.getElem_append, BitVec.getElem_extractLsb']
  split <;> [skip; split <;> [skip; split]] <;> (rw [← BitVec.getLsbD_eq_getElem]; congr 1; omega)

/-- A layer that meets the law of R22; one of many, and no statement rests on it. -/
def fixedLayer : VarLayer where
  payload v := wordToBytes v.e0 ++ wordToBytes v.e1 ++ wordToBytes v.e2 ++ wordToBytes v.e3
  decompress
    | a0 :: a1 :: a2 :: a3 :: b0 :: b1 :: b2 :: b3 :: c0 :: c1 :: c2 :: c3 :: d0 :: d1 :: d2 :: d3 :: rest =>
      some (rest, ⟨bytesToWord a0 a1 a2 a3, bytesToWord b0 b1 b2 b3, bytesToWord c0 c1 c2 c3, bytesToWord d0 d1 d2 d3⟩)
    | _ => none
  law v rest := by simp [wordToBytes, bytesToWord_extract]

/-- Program 1, step 1 with its host actions: the header byte `0x03`, then the layer's bytes of `[3,1,2,1]`. -/
theorem test_host_encode :
    (match hostEncode fixedLayer ⟨7, 6, 4, 3⟩ [0xAA] State.reset with
      | .ok (b, _) => some b
      | .error _ => none) = some [0xAA, 0x03, 0, 0, 0, 3, 0, 0, 0, 1, 0, 0, 0, 2, 0, 0, 0, 1] := by decide
/-- Program 1, step 2, with two bytes of another block behind. -/
theorem test_host_decode :
    (match hostDecode fixedLayer [0x03, 0, 0, 0, 3, 0, 0, 0, 1, 0, 0, 0, 2, 0, 0, 0, 1, 0x5A, 0x5B] State.reset with
      | .ok (x, _) => some x
      | .error _ => none) = some ([0x5A, 0x5B], ⟨7, 6, 4, 3⟩) := by decide
/-- Program 4: the header `0x74` (code 20) is rejected before DEC. -/
theorem test_host_rejects_malformed :
    (match hostDecodeValidated fixedLayer [0x74, 0, 0, 0, 108, 0, 0, 0, 0, 0, 0, 0, 0, 0, 0, 0, 111] State.reset with
      | .ok _ => none
      | .error e => some e) = some .malformedHeader := by decide
/-- R90: a short slice is found before any request, whatever its header, and on a core that would answer none. -/
theorem test_host_short_payload :
    (match hostDecodeValidated fixedLayer [0x74, 0, 0] (State.reset.withTable tableNotFromZero) with
      | .ok _ => none
      | .error e => some e) = some .shortPayload := by decide

/-! ### Witnesses -/

/-- A core fresh from reset with a request presented. -/
def presentedState : State := State.reset.present { requestFor .sort with va := ⟨3, 1, 4, 1⟩ }

/-- The same core with its request answered. -/
def answeredState : State := presentedState.answer ⟨⟨1, 1, 3, 4⟩, 0x8D, 0, 0, 0⟩

/-- DecodeEncodeAgree. -/
theorem witness_wellFormed : Instr.enc.wellFormed = true ∧ Instr.reservedF.wellFormed = true := by decide

/-- StepRunsThePresentedRequest (both clauses), FetchedWordIsRunNext, EveryRequestIsAnswered, ResponseIsAFunctionOfTheRequest, and the
statements whose only premise is a legal table: states with the default and with another table. -/
theorem witness_legal_states :
    (presentedState.thr.legal = true ∧ presentedState.phase = .presented) ∧
    (State.reset.thr.legal = true ∧ State.reset.phase ≠ .presented) ∧
    (answeredState.thr.legal = true ∧ answeredState.phase ≠ .presented) ∧
    (presentedState.withTable steepTable).thr.legal = true := by decide

/-- OnlyReadBitsMatter: HPACK reads only `BA[4:0]` and `BB[2:0]`; the two states differ in every other port and in the phase. -/
theorem witness_onlyReadBits :
    let s := State.reset.present { requestFor .hpack with ba := 0xEE, bb := 0xFF }
    let s' : State := { answeredState with req := { op := 9, va := ⟨1, 2, 3, 4⟩, pa := 9, ba := 0x0E, bb := 0x07 } }
    s.thr = s'.thr ∧ s.req.masked (readMask .hpack) = s'.req.masked (readMask .hpack) ∧ s.req ≠ s'.req := by decide

/-- TableAndRequestUnchanged and StepKeepsTheInvariant: a step that answers. -/
theorem witness_exec_next : exec .sort presentedState = .next answeredState := by rfl
theorem witness_step_next : step presentedState = .next answeredState := by rfl

/-- StepKeepsTheInvariant: its premises hold of a step that answers and of one that waits on an answer. -/
theorem witness_inv_presented : presentedState.Inv ∧ step presentedState = .next answeredState :=
  ⟨⟨by decide, fun h => by cases h⟩, witness_step_next⟩
theorem witness_inv_answered : answeredState.Inv ∧ step answeredState = .next answeredState :=
  ⟨⟨by decide, fun _ => rfl⟩, rfl⟩

/-- RequestSequencesAnswerAsAlone: a host that routes an output into the next request and then stops, before its budget of 3 and
exactly at a budget of 2. -/
theorem witness_requestSequence :
    let host : List Response → Option Request := fun seen =>
      match seen with
      | [] => some { requestFor .sort with va := ⟨7, 6, 4, 3⟩ }
      | [r] => some { requestFor .dfwd with va := r.vz }
      | _ => none
    State.reset.thr.legal = true ∧
    [2, 3].map (fun n => match hostRun host n [] State.reset with
      | .ok (out, _) => some (out.map (·.vz))
      | .error _ => none) = [some [⟨3, 4, 6, 7⟩, ⟨3, 1, 2, 1⟩], some [⟨3, 4, 6, 7⟩, ⟨3, 1, 2, 1⟩]] := by decide

/-- LegalTables: a legal table with two equal classes trivially, and an illegal one. -/
theorem witness_tables :
    (steepTable.legal = true ∧ thr steepTable 7 = thr steepTable 7) ∧ (State.reset.withTable tableNotFromZero).thr.legal = false := by
  decide

/-- ClassifierIsTight: at `n = thr(k)`, at its boundary below, and at both ends of the words. -/
theorem witness_classifier :
    Config.nib1.legal = true ∧ bestClass Config.nib1 15 = 1 ∧ bestClass Config.nib1 14 = 0 ∧ bestClass Config.nib1 0 = 0 ∧
    bestClass steepTable 0xFFFFFFFE = 6 ∧ bestClass steepTable 0xFFFFFFFF = 7 ∧ bestClass Config.nib1 14 < 1 := by decide

/-- ClsAnswersTheClass: `k >= 1` at both ends. -/
theorem witness_cls_classes : (1 : OffsetClass) ≤ 1 ∧ (1 : OffsetClass) ≤ 7 := by decide

/-- TwentyFourPermutations: two different indices. -/
theorem witness_two_indices : (0 : Index) ≠ 3 := by decide

/-- MinMaxIndexClosedForm: an index below `mn`; one below `mx` other than `mn`; a tuple of equal values. -/
theorem witness_minmax :
    (2 : Index) < (sortIdx ⟨4, 3, 2, 1⟩).1 ∧
    ((1 : Index) ≠ (sortIdx ⟨1, 2, 2, 3⟩).1 ∧ (1 : Index) < (sortIdx ⟨1, 2, 2, 3⟩).2) ∧
    (∀ k : Index, Quad.get (⟨5, 5, 5, 5⟩ : Tuple) k = Quad.get (⟨5, 5, 5, 5⟩ : Tuple) 0) := by decide

/-- SortAnswersPermutationAndTuple: a strictly ascending and a strictly descending tuple. -/
theorem witness_strict_tuples :
    ((0 : Word) < 1 ∧ (1 : Word) < 2 ∧ (2 : Word) < 0xFFFFFFFF) ∧ ((3 : Word) < 4 ∧ (4 : Word) < 6 ∧ (6 : Word) < 7) := by decide

/-- PapplyAnswersTheGather, OrderCodeBijection, InverseRestoresEveryTuple: a permutation. -/
theorem witness_permutation : isPerm ⟨2, 3, 1, 0⟩ = true ∧ isPerm ⟨3, 2, 1, 0⟩ = true := by decide

/-- ComplementPairs: a pair with an entry. -/
theorem witness_complement : complement 3 1 = some (0, 2) := by decide

/-- OrderCodeBijection and InverseOfADecodedPermutation: the least and the greatest valid code, and invalid ones. -/
theorem witness_codes :
    codeValid 2 = true ∧ codeValid 29 = true ∧ codeValid 0 = false ∧ codeValid 31 = false := by decide

/-- DeltaLaws: a non-decreasing tuple and another; a class below 7 and class 0. -/
theorem witness_deltas :
    Config.nib1.legal = true ∧ NonDecreasing ⟨0, 0, 5, 0xFFFFFFFF⟩ ∧ ¬ NonDecreasing ⟨5, 3, 3, 3⟩ ∧
    (deltaFwd Config.nib1 ⟨0x0FFFFFFE, 0, 0, 0⟩).cls < 7 ∧ (deltaFwd Config.nib1 ⟨14, 14, 14, 14⟩).cls = 0 := by decide

/-- HostRoundTrip and HostValidatesHeaders: a layer, a legal table; a malformed and a valid header; a short payload; a payload. -/
theorem witness_host :
    State.reset.thr.legal = true ∧ codeValid (hdrUnpack 0x74).1 = false ∧ codeValid (hdrUnpack 0x3C).1 = true ∧
    fixedLayer.decompress [0, 0] = none ∧
    fixedLayer.decompress [0, 0, 0, 108, 0, 0, 0, 0, 0, 0, 0, 0, 0, 0, 0, 111, 7] = some ([7], ⟨108, 0, 0, 111⟩) := by decide

end Sys2Proof.Machine
end

/-! PROOFS. Every operation answers in every state, with a response that is a function of the table and the request ports alone (R8,
R12, R91). The statements about steps, reset and the status word follow from that one equation for `exec`. -/

namespace Sys2Proof.Machine

/-! ### The sorter's selector is always one of the twelve branches (R53, R54) -/

/-- What R53's scan keeps: the minimum is at most the maximum, and the two indices meet only at the starting index 0. -/
def ScanInv (t : Tuple) (acc : Index × Index) : Prop :=
  t.get acc.1 ≤ t.get acc.2 ∧ (acc.1 = acc.2 → acc.1 = 0#2)

/-- Both comparisons of a turn are strict, so at most one of the two indices moves, and it moves away from the other. -/
theorem scanStep_keeps_inv {t : Tuple} {acc : Index × Index} (h : ScanInv t acc) (i : Index) :
    ScanInv t (scanStep t acc i) := by
  obtain ⟨mn, mx⟩ := acc
  obtain ⟨hle, hmeet⟩ := h
  simp only [ScanInv, scanStep] at hle hmeet ⊢
  by_cases hmn : t.get i < t.get mn
  · have hmx : ¬ t.get mx < t.get i := by bv_omega
    have hne : i ≠ mx := by rintro rfl; bv_omega
    simp only [hmn, hmx, if_true, if_false]
    exact ⟨by bv_omega, fun he => absurd he hne⟩
  · by_cases hmx : t.get mx < t.get i
    · have hne : mn ≠ i := by rintro rfl; bv_omega
      simp only [hmn, hmx, if_true, if_false]
      exact ⟨by bv_omega, fun he => absurd he hne⟩
    · simp only [hmn, hmx, if_false]
      exact ⟨hle, hmeet⟩

theorem foldl_scanStep_keeps_inv {t : Tuple} (is : List Index) {acc : Index × Index} (h : ScanInv t acc) :
    ScanInv t (is.foldl (scanStep t) acc) := by
  induction is generalizing acc with
  | nil => exact h
  | cons i is ih => exact ih (scanStep_keeps_inv h i)

/-- R53's last line separates the two indices: they can meet at 0 only, and then `mx` becomes 1. -/
theorem sortIdx_ne (t : Tuple) : (sortIdx t).1 ≠ (sortIdx t).2 := by
  have hstart : ScanInv t (0#2, 0#2) := ⟨BitVec.le_refl _, fun _ => rfl⟩
  have hmeet := (foldl_scanStep_keeps_inv [1#2, 2#2, 3#2] hstart).2
  simp only [sortIdx]
  split
  · next he => rw [hmeet he]; decide
  · next he => exact he

/-- Two different indices select one of the twelve branches (R54). -/
theorem selectorEnumerated_of_ne : ∀ {mn mx : Index}, mn ≠ mx → selectorEnumerated (selector mn mx) = true := by
  decide

@[simp] theorem sortEnumerated_eq_true (t : Tuple) : sortEnumerated t = true :=
  selectorEnumerated_of_ne (sortIdx_ne t)

/-! ### The response function -/

/-- `F_THR(request)` of R12, written out for each operation. `exec_eq_answer` says that it is what `exec` answers. -/
def responseTo (T : ThrTable) (i : Instr) (r : Request) : Response :=
  match i with
  | .thr => { unwritten with vz := scalarResult (thr T (classOperand r)) }
  | .cls => { unwritten with cz := classResult (bestClass T (scalarOperand r)) }
  | .sort => { unwritten with vz := (sortPerm (vectorOperand r)).2, pz := packPerm (sortPerm (vectorOperand r)).1 }
  | .papply => { unwritten with
      vz := applyPerm (vectorOperand r) (permOperand r), st := raise .permErr (!isPerm (permOperand r)) 0 }
  | .penc => { unwritten with
      bz := codeResult (permEncode (permOperand r)), st := raise .permErr (!isPerm (permOperand r)) 0 }
  | .pdec => { unwritten with
      pz := packPerm (permDecode (codeOperand r)), st := raise .codeErr (!codeValid (codeOperand r)) 0 }
  | .pinv => { unwritten with
      pz := packPerm (permInverse (codeOperand r)), st := raise .codeErr (!codeValid (codeOperand r)) 0 }
  | .dfwd => { unwritten with
      vz := (deltaFwd T (vectorOperand r)).d
      cz := classResult (deltaFwd T (vectorOperand r)).cls
      st := raise .wrap (deltaFwd T (vectorOperand r)).wrap 0 }
  | .dinv => { unwritten with
      vz := (deltaInv T (vectorOperand r) (classOperand r)).s
      st := raise .wrap (deltaInv T (vectorOperand r) (classOperand r)).wrap 0 }
  | .hpack => { unwritten with
      bz := hdrPack (codeOperand r) (classOperand r), st := raise .codeErr (!codeValid (codeOperand r)) 0 }
  | .hunpk => { unwritten with
      bz := codeResult (hdrUnpack (headerOperand r)).1
      cz := classResult (hdrUnpack (headerOperand r)).2
      st := raise .codeErr (!codeValid (hdrUnpack (headerOperand r)).1) 0 }
  | .enc => { unwritten with
      vz := (encodeBlock T (vectorOperand r)).d
      pz := packPerm (encodeBlock T (vectorOperand r)).perm
      bz := (encodeBlock T (vectorOperand r)).hdr
      cz := classResult (encodeBlock T (vectorOperand r)).cls }
  | .dec =>
    { vz := (decodeBlock T (headerOperand r) (vectorOperand r)).t
      pz := packPerm (decodeBlock T (headerOperand r) (vectorOperand r)).inv
      bz := codeResult (decodeBlock T (headerOperand r) (vectorOperand r)).code
      cz := classResult (decodeBlock T (headerOperand r) (vectorOperand r)).cls
      st := raise .wrap (decodeBlock T (headerOperand r) (vectorOperand r)).wrap
        (raise .codeErr (decodeBlock T (headerOperand r) (vectorOperand r)).cerr 0) }
  | .reservedD => reservedResponse
  | .reservedE => reservedResponse
  | .reservedF => reservedResponse

/-- Every operation answers, in every state, the response function's value (R12, R91). SORT and ENC are the two with a guard,
which never fails. -/
theorem exec_eq_answer (i : Instr) (s : State) : exec i s = .next (s.answer (responseTo s.thr i s.req)) := by
  cases i with
  | sort => simp [exec, execSort, responseTo]
  | enc => simp [exec, execEnc, responseTo]
  | _ => rfl

/-- A legal core answers a presented request with the response function's value, whatever its state was. -/
theorem step_present {s : State} (hl : s.thr.legal = true) (r : Request) :
    step (s.present r) = .next ((s.present r).answer (responseTo s.thr (decodeOp r.op) r)) := by
  rw [step_presented (s := s.present r) hl rfl]
  exact exec_eq_answer (decodeOp r.op) (s.present r)

/-- `answerOf` is the response function of the operation that `OP` selects. -/
theorem answerOf_eq {T : ThrTable} (hl : T.legal = true) (r : Request) :
    answerOf T r = some (responseTo T (decodeOp r.op) r) := by
  have hexec := exec_eq_answer (decodeOp r.op) ((State.reset.withTable T).present r)
  simp [answerOf, issue_of_exec (s := State.reset.withTable T) hl hexec]

/-- With no request presented a legal core waits (log 4). -/
theorem step_waiting {s : State} (hl : s.thr.legal = true) (hp : s.phase ≠ .presented) : step s = .next s := by
  unfold step
  rw [if_pos hl]
  split
  · next h => exact absurd h hp
  · rfl
  · rfl

/-- An operation that goes on leaves the table and the request ports (R11, R16). -/
theorem exec_frame {i : Instr} {s t : State} (h : exec i s = .next t) : t.thr = s.thr ∧ t.req = s.req := by
  rw [exec_eq_answer] at h
  cases h
  exact ⟨rfl, rfl⟩

@[simp] theorem nib1_legal : Config.nib1.legal = true := by decide

/-- Settles O3, by the two cases of the phase. -/
theorem stepRunsThePresentedRequest : Obligations.StepRunsThePresentedRequest :=
  fun _ hl => ⟨step_presented hl, step_waiting hl⟩

/-- Settles O9: both sides are the response function of the table and the request. -/
theorem responseIsAFunctionOfTheRequest : Obligations.ResponseIsAFunctionOfTheRequest :=
  fun _ r hl => ⟨_, answerOf_eq hl r, step_present hl r⟩

/-- Settles O11: a step is an operation's answer or a wait. -/
theorem tableAndRequestUnchanged : Obligations.TableAndRequestUnchanged := by
  refine ⟨fun _ _ _ h => exec_frame h, fun s t h => ?_⟩
  obtain ⟨-, ⟨-, hexec⟩ | ⟨-, rfl⟩⟩ := step_next_cases h
  · exact exec_frame hexec
  · exact ⟨rfl, rfl⟩

/-- Settles O13: NIB1 is legal, and nothing is answered yet, so nothing has to be honest. -/
theorem resetHasTheInvariant : Obligations.ResetHasTheInvariant := by
  have hphase : State.reset.phase ≠ .answered := by decide
  exact ⟨nib1_legal, fun h => absurd h hphase⟩

/-- Settles O14: reset is a legal state, and it answers as every legal state does. -/
theorem resetIsReadyAtOnce : Obligations.ResetIsReadyAtOnce :=
  ⟨rfl, rfl, fun r => ⟨_, step_present (s := State.reset) nib1_legal r, answerOf_eq nib1_legal r⟩⟩

end Sys2Proof.Machine

/-! PROOFS. The Reads and Writes columns of R36: masking an operand with the bits read leaves the operand, masking a result with the
bits written leaves the result. -/

namespace Sys2Proof.Machine

/-- The mask of a whole element leaves it. -/
theorem word_and_ones (x : Word) : x &&& 0xFFFFFFFF#32 = x := BitVec.and_allOnes

/-- The mask of a whole byte port leaves it. -/
theorem byte_and_ones (x : Byte) : x &&& 0xFF#8 = x := BitVec.and_allOnes

/-! ### Operands under the Reads mask -/

theorem scalarOperand_masked (r : Request) {m : Request} (hm : m.va.e0 = 0xFFFFFFFF) :
    scalarOperand (r.masked m) = scalarOperand r := by
  simp [scalarOperand, Request.masked, hm, word_and_ones]

theorem vectorOperand_masked (r : Request) {m : Request} (hm : m.va = wholeVector) :
    vectorOperand (r.masked m) = vectorOperand r := by
  simp [vectorOperand, Request.masked, hm, wholeVector, word_and_ones]

theorem permOperand_masked (r : Request) {m : Request} (hm : m.pa = 0xFF) :
    permOperand (r.masked m) = permOperand r := by
  simp [permOperand, Request.masked, hm, byte_and_ones]

theorem headerOperand_masked (r : Request) {m : Request} (hm : m.ba = 0xFF) :
    headerOperand (r.masked m) = headerOperand r := by
  simp [headerOperand, Request.masked, hm, byte_and_ones]

/-- An order-code operand is in bits 4:0 (R33). -/
theorem codeOperand_masked (r : Request) {m : Request} (hm : m.ba = 0x1F) :
    codeOperand (r.masked m) = codeOperand r := by
  have hbits : ∀ b : Byte, (b &&& 0x1F#8).extractLsb' 0 5 = b.extractLsb' 0 5 := by decide
  simp [codeOperand, Request.masked, hm, hbits]

/-- An offset-class operand is in bits 2:0 (R33). -/
theorem classOperand_masked (r : Request) {m : Request} (hm : m.bb = 0x07) :
    classOperand (r.masked m) = classOperand r := by
  have hbits : ∀ b : Byte, (b &&& 0x07#8).extractLsb' 0 3 = b.extractLsb' 0 3 := by decide
  simp [classOperand, Request.masked, hm, hbits]

/-- The response function reads the request through the operation's mask only (R33, R34, R36). -/
theorem responseTo_masked (T : ThrTable) (i : Instr) (r : Request) :
    responseTo T i (r.masked (readMask i)) = responseTo T i r := by
  cases i <;>
    simp (disch := decide) only [responseTo, scalarOperand_masked, vectorOperand_masked, permOperand_masked,
      codeOperand_masked, headerOperand_masked, classOperand_masked]

/-- Settles O8: where the masked requests agree the response function gives one response. -/
theorem onlyReadBitsMatter : Obligations.OnlyReadBitsMatter := by
  intro i s s' hthr hreq
  have hresp : responseTo s'.thr i s'.req = responseTo s.thr i s.req := by
    rw [← responseTo_masked s'.thr, ← hreq, ← hthr, responseTo_masked]
  exact ⟨_, exec_eq_answer i s, hresp ▸ exec_eq_answer i s'⟩

/-! ### Results under the Writes mask -/

theorem codeResult_and (code : OrderCode) : codeResult code &&& 0x1F#8 = codeResult code := by
  revert code; decide

theorem classResult_and (cls : OffsetClass) : classResult cls &&& 0x07#8 = classResult cls := by
  revert cls; decide

/-- Raising a bit of a mask stays in the mask. -/
theorem raise_and {b : StatusBit} {st mask : Byte} (cond : Bool)
    (hb : (1#8 <<< statusPos b) &&& mask = 1#8 <<< statusPos b) (hst : st &&& mask = st) :
    raise b cond st &&& mask = raise b cond st := by
  cases cond
  · exact hst
  · simp only [raise, if_true, BitVec.and_or_distrib_right, hb, hst]

/-- DEC raises two bits, both in its mask. -/
theorem raise_wrap_codeErr_and (w c : Bool) :
    raise .wrap w (raise .codeErr c 0#8) &&& 0x05#8 = raise .wrap w (raise .codeErr c 0#8) :=
  raise_and w rfl (raise_and c rfl rfl)

/-- The response function writes through the operation's mask only (R13, R33, R36). -/
theorem responseTo_writes (T : ThrTable) (i : Instr) (r : Request) :
    (responseTo T i r).masked (writeMask i) = responseTo T i r := by
  cases i <;>
    simp (disch := decide) [responseTo, Response.masked, writeMask, writeNothing, wholeVector, unwritten,
      reservedResponse, scalarResult, word_and_ones, byte_and_ones, codeResult_and, classResult_and, raise_and,
      raise_wrap_codeErr_and]

/-- Settles O7: the answer is the response function, which writes through the mask. -/
theorem unwrittenOutputsAreZero : Obligations.UnwrittenOutputsAreZero :=
  fun i s => ⟨_, exec_eq_answer i s, responseTo_writes s.thr i s.req⟩

end Sys2Proof.Machine

/-! PROOFS. Each bit of `ST` and its cause (R14, R89). -/

namespace Sys2Proof.Machine

@[simp] theorem statusOf_zero (b : StatusBit) : statusOf 0#8 b = false := by cases b <;> rfl

@[simp] theorem unwritten_st : unwritten.st = 0#8 := rfl

@[simp] theorem raise_false (b : StatusBit) (st : Byte) : raise b false st = st := rfl

/-- `raise` touches the named bits only: bits 7:5 of the status word stay. -/
@[simp] theorem raise_extract_high (b : StatusBit) (cond : Bool) (st : Byte) :
    (raise b cond st).extractLsb' 5 3 = st.extractLsb' 5 3 := by
  cases cond
  · rfl
  · have hmask : (1#8 <<< statusPos b).extractLsb' 5 3 = 0#3 := by cases b <;> rfl
    simp only [raise, if_true, BitVec.extractLsb'_or, hmask, BitVec.or_zero]

/-- The code field of a header operand is the order-code operand on the same port (R30, R33). -/
@[simp] theorem hdrUnpack_headerOperand (r : Request) :
    hdrUnpack (headerOperand r) = (codeOperand r, r.ba.extractLsb' 5 3) := rfl

/-- An order-code operand is invalid when its fields `a` and `b` agree (R61). -/
theorem codeValid_codeOperand_eq_false (r : Request) :
    codeValid (codeOperand r) = false ↔ r.ba.extractLsb' 3 2 = r.ba.extractLsb' 1 2 := by
  have hfields : ∀ ba : Byte,
      codeValid (ba.extractLsb' 0 5) = false ↔ ba.extractLsb' 3 2 = ba.extractLsb' 1 2 := by decide
  exact hfields r.ba

/-- A difference borrows exactly where the tuple descends (R72). -/
theorem deltaFwd_wrap_iff (T : ThrTable) (t : Tuple) : (deltaFwd T t).wrap = true ↔ ¬ NonDecreasing t := by
  simp only [deltaFwd, Bool.or_eq_true, borrow_iff, NonDecreasing, ← BitVec.not_le]
  tauto

/-- The cause of each bit of `ST` (R89), as the condition that the meaning computes. -/
def causeOf (T : ThrTable) (i : Instr) (r : Request) : StatusBit → Bool
  | .codeErr => decide (i ∈ [Instr.pdec, .pinv, .hpack, .hunpk, .dec]) && !codeValid (codeOperand r)
  | .permErr => decide (i ∈ [Instr.penc, .papply]) && !isPerm (permOperand r)
  | .wrap =>
    (decide (i = .dfwd) && (deltaFwd T (vectorOperand r)).wrap) ||
    (decide (i = .dinv) && (deltaInv T (vectorOperand r) (classOperand r)).wrap) ||
    (decide (i = .dec) && (deltaInv T (vectorOperand r) (hdrUnpack (headerOperand r)).2).wrap)
  | .illop => decide (i ∈ [Instr.reservedD, .reservedE, .reservedF])
  | .invar => false

/-- The status word of every response: its causes, raised over 0 (R14, R92). -/
theorem responseTo_st (T : ThrTable) (i : Instr) (r : Request) :
    (responseTo T i r).st =
      raise .illop (causeOf T i r .illop) (raise .wrap (causeOf T i r .wrap)
        (raise .permErr (causeOf T i r .permErr) (raise .codeErr (causeOf T i r .codeErr) 0))) := by
  cases i <;> simp [responseTo, causeOf, reservedResponse, decodeBlock_eq]

/-- Each raise sets its own bit and leaves the others, so each bit is its cause. -/
theorem statusOf_responseTo (T : ThrTable) (i : Instr) (r : Request) (b : StatusBit) :
    statusOf (responseTo T i r).st b = causeOf T i r b := by
  rw [responseTo_st]
  cases b <;> simp [statusOf_raise, causeOf]

/-- Bits 7:5 of the status word are 0 in every response (R14). -/
theorem responseTo_st_high (T : ThrTable) (i : Instr) (r : Request) :
    (responseTo T i r).st.extractLsb' 5 3 = 0 := by
  simp [responseTo_st]

/-- Settles O15: each bit is its cause, and each cause is the condition that R14 and R89 name. -/
theorem statusBitsReportTheirCauses : Obligations.StatusBitsReportTheirCauses := by
  intro i s
  refine ⟨_, exec_eq_answer i s, ?_, ?_, ?_, ?_, statusOf_responseTo _ _ _ _, responseTo_st_high _ _ _⟩
  · simp [statusOf_responseTo, causeOf, codeValid_codeOperand_eq_false]
  · simp [statusOf_responseTo, causeOf, permOperand]
  · simp [statusOf_responseTo, causeOf, deltaFwd_wrap_iff, vectorOperand, classOperand, or_assoc]
  · simp [statusOf_responseTo, causeOf]

end Sys2Proof.Machine

/-! PROOFS. The host around the core: what issuing a request gives, how a sequence of requests runs (R10, R28, R41), and what the
two host decodes report (R25, R26, R90). -/

namespace Sys2Proof.Machine

/-! ### One request -/

/-- An operation's `OP` value selects the operation (R36). -/
@[simp] theorem decodeOp_encodeOp (i : Instr) : decodeOp (encodeOp i) = i := by cases i <;> rfl

/-- The state of a core that has answered the request `r`. -/
def State.served (s : State) (r : Request) : State :=
  (s.present r).answer (responseTo s.thr (decodeOp r.op) r)

@[simp] theorem State.served_thr (s : State) (r : Request) : (s.served r).thr = s.thr := rfl

/-- A legal core answers every request that is issued (R12, R91). -/
theorem issue_eq {s : State} (hl : s.thr.legal = true) (r : Request) :
    issue r s = .ok (responseTo s.thr (decodeOp r.op) r, s.served r) :=
  issue_of_exec hl (exec_eq_answer (decodeOp r.op) (s.present r))

/-! ### Sequences of requests -/

theorem hostRun_zero (host : List Response → Option Request) (seen : List Response) (s : State) :
    hostRun host 0 seen s = .ok (seen, s) := rfl

theorem hostRun_stop {host : List Response → Option Request} {seen : List Response} (hstop : host seen = none)
    (n : Nat) (s : State) : hostRun host (n + 1) seen s = .ok (seen, s) := by
  simp only [hostRun, hstop]

theorem hostRun_request {host : List Response → Option Request} {seen : List Response} {r : Request} {s : State}
    (hl : s.thr.legal = true) (hr : host seen = some r) (n : Nat) :
    hostRun host (n + 1) seen s =
      hostRun host n (seen ++ [responseTo s.thr (decodeOp r.op) r]) (s.served r) := by
  simp only [hostRun, hr, issue_eq hl]

/-- The `k`-th of the responses `out`, which follow `seen`, is what a core with the table `T` answers alone to the request that
the host chose from the responses before it. -/
def AnswersAlone (T : ThrTable) (host : List Response → Option Request) (seen out : List Response) : Prop :=
  ∀ (k : Nat) (hk : k < out.length), ∃ r : Request, host (seen ++ out.take k) = some r ∧ answerOf T r = some out[k]

theorem answersAlone_nil (T : ThrTable) (host : List Response → Option Request) (seen : List Response) :
    AnswersAlone T host seen [] := fun _ hk => absurd hk (Nat.not_lt_zero _)

theorem answersAlone_cons {T : ThrTable} {host : List Response → Option Request} {seen out : List Response}
    {r : Request} {resp : Response} (hr : host seen = some r) (hresp : answerOf T r = some resp)
    (hout : AnswersAlone T host (seen ++ [resp]) out) : AnswersAlone T host seen (resp :: out) := by
  intro k hk
  cases k with
  | zero => exact ⟨r, by simpa using hr, hresp⟩
  | succ k =>
    obtain ⟨r', hr', hresp'⟩ := hout k (Nat.lt_of_succ_lt_succ hk)
    exact ⟨r', by simpa using hr', hresp'⟩

/-- Settles O10, by induction on the budget: the table never changes, so the response to the first request is the one it gets
alone, and the rest of the run is a run after one more response. -/
theorem requestSequencesAnswerAsAlone : Obligations.RequestSequencesAnswerAsAlone := by
  intro host n
  induction n with
  | zero =>
    intro seen s _
    exact ⟨[], s, by simp [hostRun_zero], le_rfl, answersAlone_nil _ _ _, fun h => absurd h (Nat.lt_irrefl _)⟩
  | succ n ih =>
    intro seen s hl
    cases hr : host seen with
    | none => exact ⟨[], s, by simp [hostRun_stop hr], Nat.zero_le _, answersAlone_nil _ _ _, fun _ => by simpa using hr⟩
    | some r =>
      obtain ⟨out, t, hrun, hlen, halone, hstop⟩ :=
        ih (seen ++ [responseTo s.thr (decodeOp r.op) r]) (s.served r) hl
      refine ⟨responseTo s.thr (decodeOp r.op) r :: out, t, ?_, Nat.succ_le_succ hlen,
        answersAlone_cons hr (answerOf_eq hl r) halone, fun h => ?_⟩
      · rw [hostRun_request hl hr, hrun, ← List.append_cons]
      · rw [List.append_cons]
        exact hstop (Nat.lt_of_succ_lt_succ h)

/-! ### The two host decodes -/

/-- DEC returns the tuple of the block (R84). -/
theorem responseTo_dec_vz (T : ThrTable) (r : Request) : (responseTo T .dec r).vz = (decodeBlock T r.ba r.va).t := rfl

/-- HUNPK reports exactly the headers with an invalid order-code (R80). -/
theorem statusOf_responseTo_hunpk (T : ThrTable) (r : Request) :
    statusOf (responseTo T .hunpk r).st .codeErr = !codeValid (hdrUnpack r.ba).1 := by
  rw [statusOf_responseTo]
  rfl

/-- A payload that the layer finds short is reported before any request (R90). -/
theorem hostDecode_short {L : VarLayer} {bytes : List Byte} (hshort : L.decompress bytes = none) (h : Byte) (s : State) :
    hostDecode L (h :: bytes) s = .error .shortPayload := by
  simp only [hostDecode, hshort]

theorem hostDecodeValidated_short {L : VarLayer} {bytes : List Byte} (hshort : L.decompress bytes = none) (h : Byte)
    (s : State) : hostDecodeValidated L (h :: bytes) s = .error .shortPayload := by
  simp only [hostDecodeValidated, hshort]

/-- Host decode of a slice that the layer reads is one DEC request (R25). -/
theorem hostDecode_read {L : VarLayer} {bytes rest : List Byte} {m : Tuple} {s : State} (hl : s.thr.legal = true)
    (hread : L.decompress bytes = some (rest, m)) (h : Byte) :
    hostDecode L (h :: bytes) s =
      .ok ((rest, (decodeBlock s.thr h m).t), s.served { requestFor .dec with ba := h, va := m }) := by
  simp only [hostDecode, hread, issue_eq hl, requestFor, decodeOp_encodeOp, responseTo_dec_vz]

/-- Validated decode of a slice that the layer reads is one HUNPK request, and host decode where that reports no error (R26). -/
theorem hostDecodeValidated_read {L : VarLayer} {bytes rest : List Byte} {m : Tuple} {s : State} (hl : s.thr.legal = true)
    (hread : L.decompress bytes = some (rest, m)) (h : Byte) :
    hostDecodeValidated L (h :: bytes) s =
      if codeValid (hdrUnpack h).1 then hostDecode L (h :: bytes) (s.served { requestFor .hunpk with ba := h })
      else .error .malformedHeader := by
  simp only [hostDecodeValidated, hread, issue_eq hl, requestFor, decodeOp_encodeOp, statusOf_responseTo_hunpk]
  cases codeValid (hdrUnpack h).1 <;> rfl

/-- Settles O55: the first two errors come before any request; past them HUNPK's answer decides, and DEC runs on the same table. -/
theorem hostValidatesHeaders : Obligations.HostValidatesHeaders := by
  intro L h bytes s
  refine ⟨⟨rfl, rfl⟩, fun hshort => ⟨hostDecode_short hshort h s, hostDecodeValidated_short hshort h s⟩,
    fun rest m hl hread => ⟨fun hinvalid => ?_, fun hvalid => ?_⟩⟩
  · simp [hostDecodeValidated_read hl hread, hinvalid]
  · have hl' : (s.served { requestFor .hunpk with ba := h }).thr.legal = true := by simpa using hl
    rw [hostDecodeValidated_read hl hread, if_pos hvalid, hostDecode_read hl' hread, State.served_thr]
    exact ⟨_, rfl⟩

end Sys2Proof.Machine

/-! PROOFS. The encodings: the opcode map and its byte form (R35 to R38), a request word placed where the step fetches, the packed
permutation (R32), and the reserved opcodes (R37). -/

namespace Sys2Proof.Machine

/-! ### The opcode map -/

/-- Each of the sixteen `OP` values is the value of the operation it selects (R36, R37). -/
@[simp] theorem encodeOp_decodeOp (op : OpCode) : encodeOp (decodeOp op) = op := by
  revert op; decide

/-- A request word on a byte with bits 7:4 zero is read back whole (R35, log 6). -/
@[simp] theorem opOfByte_setWidth (op : OpCode) : opOfByte (op.setWidth 8) = op := by
  rw [opOfByte, BitVec.extractLsb'_setWidth_of_le (by decide), BitVec.extractLsb'_eq_self]

/-- Decoding takes one byte, which selects the operation, and leaves the rest (R35). -/
theorem decode_cons (b : Byte) (rest : List Byte) : decode (b :: rest) = .ok (decodeOp (opOfByte b), rest) := rfl

theorem decode_encode_append (i : Instr) (rest : List Byte) : decode (encode i ++ rest) = .ok (i, rest) := by
  simp [encode, decode_cons]

/-- The one byte of a byte's number is the byte. -/
theorem wordBytes_toNat (b : Byte) : wordBytes b.toNat 1 = [b] := by
  simp [wordBytes]

/-- A table word of 8 bits is one byte, so it decodes as its `OP` field does (log 6). -/
theorem decodeTableWord_eq (w : Nat) : decodeTableWord 8 w = some (decodeOp (opOfByte (BitVec.ofNat 8 w))) := by
  have hbytes : wordBytes (BitVec.ofNat 8 w).toNat ((8 + 7) / 8) = [BitVec.ofNat 8 w] := wordBytes_toNat _
  rw [decodeTableWord, hbytes, decode_cons]

/-- Settles O1: the map and its inverse are each other's inverse, and one byte carries every `OP` value. -/
theorem decodeEncodeAgree : Obligations.DecodeEncodeAgree := by
  refine ⟨fun i rest _ => decode_encode_append i rest, encodeOp_decodeOp, fun i => ?_⟩
  rw [decodeTableWord_eq, BitVec.ofNat_toNat, opOfByte_setWidth, decodeOp_encodeOp]

/-- Settles O2: each word is the `OP` value of its operation, and an operation's `OP` value selects it. -/
theorem opcodeMapWords : Obligations.OpcodeMapWords :=
  ⟨decodeOp_encodeOp .thr, decodeOp_encodeOp .cls, decodeOp_encodeOp .sort, decodeOp_encodeOp .papply,
    decodeOp_encodeOp .penc, decodeOp_encodeOp .pdec, decodeOp_encodeOp .pinv, decodeOp_encodeOp .dfwd,
    decodeOp_encodeOp .dinv, decodeOp_encodeOp .hpack, decodeOp_encodeOp .hunpk, decodeOp_encodeOp .enc,
    decodeOp_encodeOp .dec, decodeOp_encodeOp .reservedD, decodeOp_encodeOp .reservedE, decodeOp_encodeOp .reservedF⟩

/-! ### A request word placed where the step fetches -/

/-- Placing an `OP` value as an 8-bit word presents that `OP` with the operands on the ports (R35). -/
theorem State.withFetchWord_opCode (s : State) (op : OpCode) :
    s.withFetchWord 8 op.toNat = s.present { s.req with op := op } := by
  simp [State.withFetchWord]

/-- Settles O4: the placed word is presented, and a presented request runs the operation its `OP` selects. -/
theorem fetchedWordIsRunNext : Obligations.FetchedWordIsRunNext := by
  intro s i hl
  rw [State.withFetchWord_opCode, step_presented (by simpa using hl) rfl, State.present_fetchOp, decodeOp_encodeOp]

/-! ### The packed permutation -/

/-- Concatenation as arithmetic: the high part is scaled past the low part's width. -/
theorem toNat_append_eq_add {m n : Nat} (x : BitVec m) (y : BitVec n) :
    (x ++ y).toNat = 2 ^ n * x.toNat + y.toNat := by
  rw [BitVec.toNat_append, ← Nat.shiftLeft_add_eq_or_of_lt y.isLt, Nat.shiftLeft_eq, Nat.mul_comm]

/-- Element `i` of a packed permutation has the weight `2^(2i)` (R32). -/
theorem packPerm_toNat (p : Perm) :
    (packPerm p).toNat = p.e0.toNat + 4 * p.e1.toNat + 16 * p.e2.toNat + 64 * p.e3.toNat := by
  simp only [packPerm, toNat_append_eq_add]
  omega

/-- The four fields of a byte, joined again, are the byte (R32). -/
@[simp] theorem packPerm_unpackPerm (b : Byte) : packPerm (unpackPerm b) = b := by
  have h64 : b.extractLsb' 6 2 ++ b.extractLsb' 4 2 = b.extractLsb' 4 4 :=
    BitVec.extractLsb'_append_extractLsb'_eq_extractLsb' rfl
  have h42 : b.extractLsb' 4 4 ++ b.extractLsb' 2 2 = b.extractLsb' 2 6 :=
    BitVec.extractLsb'_append_extractLsb'_eq_extractLsb' rfl
  have h20 : b.extractLsb' 2 6 ++ b.extractLsb' 0 2 = b.extractLsb' 0 8 :=
    BitVec.extractLsb'_append_extractLsb'_eq_extractLsb' rfl
  calc packPerm (unpackPerm b)
      = b.extractLsb' 6 2 ++ b.extractLsb' 4 2 ++ b.extractLsb' 2 2 ++ b.extractLsb' 0 2 := rfl
    _ = b.extractLsb' 0 8 := by rw [h64, h42, h20]
    _ = b := BitVec.extractLsb'_eq_self

/-- Settles O24: the weights of the four fields, the two inverses, and the identity's byte. -/
theorem permutationPacking : Obligations.PermutationPacking :=
  ⟨packPerm_toNat, unpackPerm_packPerm, packPerm_unpackPerm, rfl⟩

/-! ### The reserved opcodes -/

/-- R37's response written out: every data output 0, and `ILLOP` is bit 3 of `ST`. -/
theorem reservedResponse_eq : reservedResponse = ⟨⟨0, 0, 0, 0⟩, 0, 0, 0, 0x08⟩ := rfl

/-- The response to a reserved operation depends on neither the table nor the operands (R37). -/
theorem responseTo_reserved (T : ThrTable) {i : Instr} (hi : i ∈ [Instr.reservedD, .reservedE, .reservedF])
    (r : Request) : responseTo T i r = reservedResponse := by
  simp only [List.mem_cons, List.not_mem_nil, or_false] at hi
  rcases hi with rfl | rfl | rfl <;> rfl

/-- Settles O53: the answer is the response function's value, which for a reserved operation is R37's response. -/
theorem reservedOpcodesAnswerIllop : Obligations.ReservedOpcodesAnswerIllop := by
  refine ⟨decodeOp_encodeOp .reservedD, decodeOp_encodeOp .reservedE, decodeOp_encodeOp .reservedF, fun s i hi => ?_⟩
  rw [exec_eq_answer, responseTo_reserved s.thr hi, reservedResponse_eq]

end Sys2Proof.Machine

/-! PROOFS. The invariant of a step (R12, R44), and the threshold table and its classifier (R42 to R50). For a legal table the class
scan and the table meet in one equivalence, `thr_le_iff_le_bestClass`, and the statements about classes follow from it. -/

namespace Sys2Proof.Machine

/-! ### The invariant -/

/-- The response function reads the table and the request ports, which an answer leaves, so answering again changes nothing (R8). -/
theorem answer_responseTo_honest (s : State) :
    (s.answer (responseTo s.thr (decodeOp s.fetchOp) s.req)).Honest := by
  intro _
  rw [exec_eq_answer, State.answer_answer]
  rfl

/-- What an operation that goes on leaves on the ports is the answer to the request on them (R12, R29). -/
theorem exec_fetchOp_honest {s t : State} (h : exec (decodeOp s.fetchOp) s = .next t) : t.Honest := by
  rw [exec_eq_answer] at h
  cases h
  exact answer_responseTo_honest s

/-- Settles O12: a step that goes on answers the presented request, or waits in the state it had. -/
theorem stepKeepsTheInvariant : Obligations.StepKeepsTheInvariant := by
  intro s t hinv hstep
  obtain ⟨hl, ⟨-, hexec⟩ | ⟨-, rfl⟩⟩ := step_next_cases hstep
  · exact ⟨(exec_frame hexec).1 ▸ hl, exec_fetchOp_honest hexec⟩
  · exact hinv

/-! ### Legal tables -/

/-- The thresholds by their classes (R43). -/
theorem thr_entries (T : ThrTable) :
    [thr T 0, thr T 1, thr T 2, thr T 3, thr T 4, thr T 5, thr T 6, thr T 7] =
      [T.t0, T.t1, T.t2, T.t3, T.t4, T.t5, T.t6, T.t7] := rfl

/-- R44's two conditions in terms of the threshold function. -/
theorem legal_iff_thr (T : ThrTable) :
    T.legal = true ↔ thr T 0 = 0 ∧ ∀ k : OffsetClass, k < 7 → thr T k < thr T (k + 1) := by
  rw [legal_iff, forall_class]
  simp [thr]

theorem thr_zero {T : ThrTable} (hl : T.legal = true) : thr T 0 = 0 := ((legal_iff_thr T).1 hl).1

/-- From one class to the next the threshold grows, so it grows from each class to every greater one (R44). -/
theorem thr_lt_thr {T : ThrTable} (hl : T.legal = true) {j k : OffsetClass} (hjk : j < k) : thr T j < thr T k := by
  have hsucc : ∀ i : Fin 7, BitVec.ofFin (w := 3) i.castSucc < 7 ∧
      BitVec.ofFin (w := 3) i.castSucc + 1 = BitVec.ofFin i.succ := by decide
  have hmono : StrictMono fun i : Fin 8 => (thr T (BitVec.ofFin (w := 3) i)).toNat := by
    rw [Fin.strictMono_iff_lt_succ]
    intro i
    have hstep := ((legal_iff_thr T).1 hl).2 _ (hsucc i).1
    rwa [(hsucc i).2] at hstep
  exact hmono hjk

/-- The thresholds of a legal table are ordered as their classes are. -/
theorem thr_le_thr_iff {T : ThrTable} (hl : T.legal = true) {j k : OffsetClass} : thr T j ≤ thr T k ↔ j ≤ k := by
  refine ⟨fun h => ?_, fun h => ?_⟩
  · rw [← BitVec.not_lt] at h ⊢
    exact fun hkj => h (thr_lt_thr hl hkj)
  · by_cases heq : j = k
    · exact heq ▸ BitVec.le_refl _
    · exact BitVec.le_of_lt (thr_lt_thr hl (BitVec.lt_of_le_ne h heq))

theorem thr_injective {T : ThrTable} (hl : T.legal = true) {j k : OffsetClass} (h : thr T j = thr T k) : j = k :=
  BitVec.le_antisymm ((thr_le_thr_iff hl).1 (h ▸ BitVec.le_refl _)) ((thr_le_thr_iff hl).1 (h ▸ BitVec.le_refl _))

/-- A table that breaks R44 is refused before anything runs. -/
theorem step_refused {s : State} (h : s.thr.legal = false) : step s = .refused .illegalThresholdTable := by
  simp [step, h]

/-- Settles O18: the conditions by class, the order they give, and the first test of a step. -/
theorem legalTables : Obligations.LegalTables :=
  ⟨legal_iff_thr, fun _ hl _ _ h => thr_injective hl h, fun _ h => step_refused h⟩

/-- Refutes O19: the table 0, 1, 2, 3, 4, 5, 6, 0xFFFFFFFF is legal, and its top entry is above the bound (log 15). -/
theorem not_legalTableTopBound : ¬ Obligations.LegalTableTopBound := by
  intro h
  exact absurd (h ⟨0, 1, 2, 3, 4, 5, 6, 0xFFFFFFFF⟩ (by decide)) (by decide)

/-- Settles O17: the eight entries of NIB1, one class at a time. -/
theorem defaultTableValues : Obligations.DefaultTableValues := by
  have hladder : ∀ k : OffsetClass, (thr Config.nib1 k).toNat = 2 ^ (4 * k.toNat) - 1 := by
    rw [forall_class]
    decide
  exact ⟨hladder, nib1_legal, rfl, rfl⟩

/-! ### The classifier -/

/-- The scan of R46 takes a class whose threshold is not above the word, and passes over every greater class. -/
theorem bestClass_scan {T : ThrTable} (hl : T.legal = true) (n : Word) :
    thr T (bestClass T n) ≤ n ∧ ∀ k : OffsetClass, thr T k ≤ n → k ≤ bestClass T n := by
  have hdown : classesDown.Pairwise (fun j k => k ≤ j) := by decide
  have hall : ∀ k : OffsetClass, k ∈ classesDown := by decide
  have hzero : thr T 0 ≤ n := by rw [thr_zero hl]; bv_omega
  cases hscan : classesDown.find? (fun k => decide (thr T k ≤ n)) with
  | none => exact absurd hzero (by simpa using List.find?_eq_none.1 hscan 0 (hall 0))
  | some b =>
    have hbest : bestClass T n = b := by simp [bestClass, hscan]
    obtain ⟨hb, above, below, hsplit, habove⟩ := List.find?_eq_some_iff_append.1 hscan
    rw [hbest]
    refine ⟨by simpa using hb, fun k hk => ?_⟩
    have hmem : k ∈ above ++ b :: below := hsplit ▸ hall k
    rw [hsplit] at hdown
    obtain hk' | rfl | hk' : k ∈ above ∨ k = b ∨ k ∈ below := by simpa using hmem
    · exact absurd hk (by simpa using habove k hk')
    · exact BitVec.le_refl _
    · exact List.rel_of_pairwise_cons (List.pairwise_append.1 hdown).2.1 hk'

/-- `bestClass` is the greatest class whose threshold does not exceed the word: a threshold is at most the word exactly for the
classes up to it (R46, R47). -/
theorem thr_le_iff_le_bestClass {T : ThrTable} (hl : T.legal = true) {n : Word} {k : OffsetClass} :
    thr T k ≤ n ↔ k ≤ bestClass T n := by
  obtain ⟨hle, hgreatest⟩ := bestClass_scan hl n
  exact ⟨hgreatest k, fun h => BitVec.le_trans ((thr_le_thr_iff hl).2 h) hle⟩

/-- The same from above: the word is below the thresholds of the greater classes only. -/
theorem lt_thr_iff_bestClass_lt {T : ThrTable} (hl : T.legal = true) {n : Word} {k : OffsetClass} :
    n < thr T k ↔ bestClass T n < k := by
  rw [← BitVec.not_le, thr_le_iff_le_bestClass hl, BitVec.not_le]

/-- The greatest class whose threshold does not exceed the word is the only one with the next threshold above it (R46). -/
theorem thr_bounds_iff {T : ThrTable} (hl : T.legal = true) {n : Word} {k : OffsetClass} :
    thr T k ≤ n ∧ (k = 7 ∨ n < thr T (k + 1)) ↔ k = bestClass T n := by
  have htight : ∀ j b : OffsetClass, j ≤ b ∧ (j = 7 ∨ b < j + 1) ↔ j = b := by decide
  rw [thr_le_iff_le_bestClass hl, lt_thr_iff_bestClass_lt hl, htight]

/-- Two classes with the same lower bounds are the same. -/
theorem class_eq_of_forall_le_iff {a b : OffsetClass} (h : ∀ j, j ≤ a ↔ j ≤ b) : a = b :=
  BitVec.le_antisymm ((h a).1 (BitVec.le_refl a)) ((h b).2 (BitVec.le_refl b))

/-- A threshold has its own class (R50). -/
theorem bestClass_thr {T : ThrTable} (hl : T.legal = true) (k : OffsetClass) : bestClass T (thr T k) = k :=
  class_eq_of_forall_le_iff fun _ => by rw [← thr_le_iff_le_bestClass hl, thr_le_thr_iff hl]

/-- The thresholds from class 1 are above 0, so subtracting 1 from one does not borrow (R44). -/
theorem le_thr_sub_one_iff {T : ThrTable} (hl : T.legal = true) {n : Word} {k : OffsetClass} (hk : 1 ≤ k) :
    n ≤ thr T k - 1 ↔ n < thr T k := by
  have hpos : thr T 0 < thr T k := thr_lt_thr hl (by bv_omega)
  bv_omega

/-- The word below a threshold has the class below (R50). -/
theorem bestClass_thr_sub_one {T : ThrTable} (hl : T.legal = true) {k : OffsetClass} (hk : 1 ≤ k) :
    bestClass T (thr T k - 1) = k - 1 := by
  refine class_eq_of_forall_le_iff fun j => ?_
  rw [← thr_le_iff_le_bestClass hl, le_thr_sub_one_iff hl hk, ← BitVec.not_le, thr_le_thr_iff hl]
  bv_omega

/-- Settles O20: each clause is the equivalence of threshold and class, read for one comparison. -/
theorem classifierIsTight : Obligations.ClassifierIsTight := by
  intro T n hl
  have hle : thr T (bestClass T n) ≤ n := (bestClass_scan hl n).1
  refine ⟨hle, fun k hk => ?_, ?_, fun k => thr_bounds_iff hl⟩
  · rwa [BitVec.not_le, lt_thr_iff_bestClass_lt hl]
  · rwa [Bool.eq_false_iff, Ne, borrow_iff, BitVec.not_lt]

/-- A legal table's classes from below: each ends one below the next threshold (R46). -/
theorem bestClass_eq_ascending {T : ThrTable} (hl : T.legal = true) (n : Word) :
    bestClass T n =
      if n ≤ thr T 1 - 1 then 0 else if n ≤ thr T 2 - 1 then 1 else if n ≤ thr T 3 - 1 then 2
      else if n ≤ thr T 4 - 1 then 3 else if n ≤ thr T 5 - 1 then 4 else if n ≤ thr T 6 - 1 then 5
      else if n ≤ thr T 7 - 1 then 6 else 7 := by
  have hcount : ∀ b : OffsetClass, b =
      if b < 1 then 0 else if b < 2 then 1 else if b < 3 then 2 else if b < 4 then 3
      else if b < 5 then 4 else if b < 6 then 5 else if b < 7 then 6 else 7 := by decide
  simp (disch := decide) only [le_thr_sub_one_iff hl, lt_thr_iff_bestClass_lt hl]
  exact hcount (bestClass T n)

/-- Settles O21: each range ends one below the next threshold of NIB1. -/
theorem defaultClassRanges : Obligations.DefaultClassRanges := fun n => bestClass_eq_ascending nib1_legal n

/-! ### THR and CLS -/

/-- THR's whole response (R49). -/
theorem responseTo_thr (T : ThrTable) (r : Request) :
    responseTo T .thr r = ⟨⟨thr T (r.bb.extractLsb' 0 3), 0, 0, 0⟩, 0, 0, 0, 0⟩ := rfl

/-- CLS's whole response (R50). -/
theorem responseTo_cls (T : ThrTable) (r : Request) :
    responseTo T .cls r = ⟨⟨0, 0, 0, 0⟩, 0, 0, (bestClass T r.va.e0).setWidth 8, 0⟩ := rfl

/-- Bits 7:3 of a class operand are ignored (R33). -/
theorem extract_class_or_high (bb : Byte) : (bb ||| 0xF8).extractLsb' 0 3 = bb.extractLsb' 0 3 := by
  have hhigh : (0xF8 : Byte).extractLsb' 0 3 = 0#3 := rfl
  rw [BitVec.extractLsb'_or, hhigh, BitVec.or_zero]

/-- Settles O22: THR's response, with the table's entries and the ignored bits of its operand. -/
theorem thrAnswersTheThreshold : Obligations.ThrAnswersTheThreshold := by
  refine ⟨decodeOp_encodeOp .thr, thr_entries, fun s => ?_, fun _ hl => thr_zero hl, extract_class_or_high, ?_⟩
  · rw [exec_eq_answer, responseTo_thr]
  · rw [answerOf_eq nib1_legal]
    rfl

/-- A request for CLS is answered with the class of its element 0 (R50). -/
theorem answerOf_cls {T : ThrTable} (hl : T.legal = true) (n : Word) :
    answerOf T { requestFor .cls with va := ⟨n, 0, 0, 0⟩ } =
      some ⟨⟨0, 0, 0, 0⟩, 0, 0, (bestClass T n).setWidth 8, 0⟩ :=
  answerOf_eq hl _

/-- Settles O23: CLS's response, and the classes at and just below the thresholds; 0 is the threshold of class 0, and no
threshold exceeds 0xFFFFFFFF. -/
theorem clsAnswersTheClass : Obligations.ClsAnswersTheClass := by
  refine ⟨decodeOp_encodeOp .cls, fun s => ?_, fun T hl => ⟨?_, ?_, bestClass_thr hl, fun k => bestClass_thr_sub_one hl⟩, ?_⟩
  · rw [exec_eq_answer, responseTo_cls]
  · rw [← thr_zero hl, bestClass_thr hl]
  · exact ((thr_bounds_iff hl).1 ⟨BitVec.le_def.2 (Nat.le_sub_one_of_lt (thr T 7).isLt), .inl rfl⟩).symm
  · simp only [List.map, answerOf_cls nib1_legal, defaultClassRanges _]
    rfl

end Sys2Proof.Machine

/-! PROOFS. The permutation engine (R51 to R60). One turn of R53's scan keeps "the first index that holds the best value so far",
for the minimum and the maximum alike; the closed form of `sortIdx`, the branch table and the sorter laws follow from it. -/

namespace Sys2Proof.Machine

/-! ### Permutations and gathers -/

theorem isPerm_iff (p : Perm) :
    isPerm p = true ↔
      p.e0 ≠ p.e1 ∧ p.e0 ≠ p.e2 ∧ p.e0 ≠ p.e3 ∧ p.e1 ≠ p.e2 ∧ p.e1 ≠ p.e3 ∧ p.e2 ≠ p.e3 := by
  simp [isPerm, and_assoc]

/-- The twelve ordered pairs of different positions are the six of `isPerm`, each in both orders (R51). -/
theorem isPerm_iff_get (p : Perm) : isPerm p = true ↔ ∀ i j : Index, i ≠ j → p.get i ≠ p.get j := by
  rw [isPerm_iff]
  constructor
  · rintro ⟨h01, h02, h03, h12, h13, h23⟩
    simp [forall_index, h01, h02, h03, h12, h13, h23, h01.symm, h02.symm, h03.symm, h12.symm, h13.symm, h23.symm]
  · intro h
    exact ⟨h 0 1 (by decide), h 0 2 (by decide), h 0 3 (by decide), h 1 2 (by decide), h 1 3 (by decide),
      h 2 3 (by decide)⟩

/-- The 64 bytes with element 3 fixed hold the six orders of the other three elements (R32, R51). -/
theorem countP_isPerm_block :
    ∀ a < 4, (List.range 64).countP (fun b => isPerm (unpackPerm (BitVec.ofNat 8 (64 * a + b)))) = 6 := by
  decide

theorem countP_isPerm_range {n : Nat} (hn : n ≤ 4) :
    (List.range (64 * n)).countP (fun b => isPerm (unpackPerm (BitVec.ofNat 8 b))) = 6 * n := by
  induction n with
  | zero => rfl
  | succ n ih =>
    rw [Nat.mul_succ, List.range_add, List.countP_append, ih (Nat.le_of_succ_le hn), List.countP_map]
    exact congrArg (6 * n + ·) (countP_isPerm_block n hn)

/-- Settles O25: each of the four values of element 3 leaves six orders of the others. -/
theorem twentyFourPermutations : Obligations.TwentyFourPermutations :=
  ⟨isPerm_iff_get, countP_isPerm_range (n := 4) le_rfl⟩

/-- What holds of every four indices holds of every array; this makes a claim about arrays a finite check. -/
theorem forall_perm {P : Perm → Prop} : (∀ p, P p) ↔ ∀ a b c d : Index, P ⟨a, b, c, d⟩ :=
  ⟨fun h _ _ _ _ => h _, fun h ⟨a, b, c, d⟩ => h a b c d⟩

/-- The gather by a literal array (R52). -/
theorem applyPerm_mk (t : Tuple) (a b c d : Index) :
    applyPerm t ⟨a, b, c, d⟩ = ⟨t.get a, t.get b, t.get c, t.get d⟩ := rfl

/-- The elements of a permutation are the four indices in another order (R51). -/
theorem indices_perm_of_isPerm :
    ∀ {p : Perm}, isPerm p = true → [p.e0, p.e1, p.e2, p.e3].Perm [0#2, 1#2, 2#2, 3#2] := by
  rw [forall_perm]
  decide

/-- Every index is an element of a permutation. -/
theorem index_eq_element_of_isPerm {p : Perm} (hp : isPerm p = true) (k : Index) :
    k = p.e0 ∨ k = p.e1 ∨ k = p.e2 ∨ k = p.e3 := by
  have hmem : k ∈ [p.e0, p.e1, p.e2, p.e3] := (indices_perm_of_isPerm hp).mem_iff.2 (by simpa using index_cases k)
  simpa using hmem

/-- A gather by a permutation keeps the values and their multiplicities (R52, R57 item 4). -/
theorem applyPerm_sameValues {p : Perm} (hp : isPerm p = true) (t : Tuple) : SameValues (applyPerm t p) t :=
  fun x => ((indices_perm_of_isPerm hp).map t.get).count_eq x

/-- R65's loop inverts every permutation. -/
theorem get_invertPerm : ∀ {p : Perm}, isPerm p = true → ∀ i : Index, p.get ((invertPerm p).get i) = i := by
  rw [forall_perm]
  decide

/-! ### The scan for the two extremes -/

/-- Among the indices below `n`, `m` is the first whose value no other one betters (R53). -/
structure FirstBest (better : Word → Word → Prop) (t : Tuple) (n : Nat) (m : Index) : Prop where
  unbeaten : ∀ k : Index, k.toNat < n → ¬ better (t.get k) (t.get m)
  first : ∀ k : Index, k < m → better (t.get m) (t.get k)

/-- One comparison of the scan: the new index is taken only when it is strictly better, so the earlier one wins a tie. -/
theorem FirstBest.update {better : Word → Word → Prop} [DecidableRel better]
    (hasymm : ∀ {a b}, better a b → ¬ better b a) (htrans : ∀ {a b c}, better a b → ¬ better c b → better a c)
    {t : Tuple} {i m : Index} (h : FirstBest better t i.toNat m) :
    FirstBest better t (i.toNat + 1) (if better (t.get i) (t.get m) then i else m) := by
  by_cases hi : better (t.get i) (t.get m)
  · have hbeats : ∀ k : Index, k.toNat < i.toNat → better (t.get i) (t.get k) :=
      fun k hk => htrans hi (h.unbeaten k hk)
    rw [if_pos hi]
    refine ⟨fun k hk => ?_, hbeats⟩
    rcases Nat.lt_succ_iff_lt_or_eq.1 hk with hk | hk
    · exact hasymm (hbeats k hk)
    · rw [BitVec.eq_of_toNat_eq hk]
      exact fun hself => hasymm hself hself
  · rw [if_neg hi]
    refine ⟨fun k hk => ?_, h.first⟩
    rcases Nat.lt_succ_iff_lt_or_eq.1 hk with hk | hk
    · exact h.unbeaten k hk
    · rwa [BitVec.eq_of_toNat_eq hk]

/-- The scan's two indices after the indices below `n`: the first minimum and the first maximum (R53). -/
def FirstExtremes (t : Tuple) (n : Nat) (acc : Index × Index) : Prop :=
  FirstBest (· < ·) t n acc.1 ∧ FirstBest (· > ·) t n acc.2

theorem scanStep_firstExtremes {t : Tuple} {acc : Index × Index} {i : Index} (h : FirstExtremes t i.toNat acc) :
    FirstExtremes t (i.toNat + 1) (scanStep t acc i) :=
  ⟨h.1.update (by bv_omega) (by bv_omega), h.2.update (by bv_omega) (by bv_omega)⟩

/-- At the start of the scan index 0 is the only one seen. -/
theorem FirstBest.start {better : Word → Word → Prop} (hasymm : ∀ {a b}, better a b → ¬ better b a) (t : Tuple) :
    FirstBest better t 1 0#2 := by
  have hzero : ∀ k : Index, k.toNat < 1 → k = 0#2 := by decide
  refine ⟨fun k hk => ?_, fun k hk => by bv_omega⟩
  rw [hzero k hk]
  exact fun hself => hasymm hself hself

/-- Before the last line of R53 the pair is that of the first minimum and the first maximum. -/
theorem scan_firstExtremes (t : Tuple) :
    FirstExtremes t 4 (([1#2, 2#2, 3#2] : List Index).foldl (scanStep t) (0#2, 0#2)) := by
  have hstart : FirstExtremes t (1#2).toNat (0#2, 0#2) := ⟨.start (by bv_omega) t, .start (by bv_omega) t⟩
  exact scanStep_firstExtremes (i := 3#2) (scanStep_firstExtremes (i := 2#2) (scanStep_firstExtremes hstart))

/-- After all four indices, the two extremes bound every element. -/
theorem FirstExtremes.bounds {t : Tuple} {acc : Index × Index} (h : FirstExtremes t 4 acc) (k : Index) :
    t.get acc.1 ≤ t.get k ∧ t.get k ≤ t.get acc.2 :=
  ⟨BitVec.not_lt.1 (h.1.unbeaten k k.isLt), BitVec.not_lt.1 (h.2.unbeaten k k.isLt)⟩

/-- Both extremes of a tuple of four equal values are at index 0. -/
theorem FirstExtremes.eq_zero {t : Tuple} {n : Nat} {acc : Index × Index} (h : FirstExtremes t n acc)
    (hall : ∀ k : Index, t.get k = t.get 0) : acc = (0, 0) := by
  have hpos : ∀ k : Index, ¬ 0 < k → k = 0 := by decide
  refine Prod.ext (hpos _ fun hlt => ?_) (hpos _ fun hlt => ?_)
  · exact absurd (h.1.first 0 hlt) (by rw [hall]; bv_omega)
  · exact absurd (h.2.first 0 hlt) (by rw [hall]; bv_omega)

/-- What R53's pair can be: `(0, 1)` for four equal values, and otherwise the first minimum and the first maximum. -/
theorem sortIdx_cases (t : Tuple) :
    ((∀ k : Index, t.get k = t.get 0) ∧ sortIdx t = (0, 1)) ∨
      ((sortIdx t).1 ≠ (sortIdx t).2 ∧ FirstExtremes t 4 (sortIdx t)) := by
  have hscan := scan_firstExtremes t
  rw [sortIdx]
  generalize ([1#2, 2#2, 3#2] : List Index).foldl (scanStep t) (0#2, 0#2) = acc at hscan
  obtain ⟨mn, mx⟩ := acc
  by_cases hmeet : mn = mx
  · subst hmeet
    have hall : ∀ k j : Index, t.get k = t.get j := fun k j =>
      BitVec.le_antisymm (BitVec.le_trans (hscan.bounds k).2 (hscan.bounds j).1)
        (BitVec.le_trans (hscan.bounds j).2 (hscan.bounds k).1)
    obtain ⟨rfl, -⟩ := Prod.mk.inj (hscan.eq_zero fun k => hall k 0)
    exact .inl ⟨fun k => hall k 0, rfl⟩
  · simp only [if_neg hmeet]
    exact .inr ⟨hmeet, hscan⟩

theorem sortIdx_of_all_equal {t : Tuple} (hall : ∀ k : Index, t.get k = t.get 0) : sortIdx t = (0, 1) := by
  obtain ⟨-, hpair⟩ | ⟨hne, hfirst⟩ := sortIdx_cases t
  · exact hpair
  · rw [hfirst.eq_zero hall] at hne
    exact absurd rfl hne

/-- The pair of R53 bounds every element of the tuple. -/
theorem sortIdx_bounds (t : Tuple) (k : Index) :
    t.get (sortIdx t).1 ≤ t.get k ∧ t.get k ≤ t.get (sortIdx t).2 := by
  obtain ⟨hall, -⟩ | ⟨-, hfirst⟩ := sortIdx_cases t
  · rw [hall k, hall (sortIdx t).1, hall (sortIdx t).2]
    exact ⟨BitVec.le_refl _, BitVec.le_refl _⟩
  · exact hfirst.bounds k

/-- Settles O26: of four equal values the pair `(0, 1)` has nothing to pass over, and otherwise each index is the first with its
value. -/
theorem minMaxIndexClosedForm : Obligations.MinMaxIndexClosedForm := by
  intro t
  refine ⟨sortIdx_bounds t, ?_, ?_, sortIdx_ne t, sortIdx_of_all_equal⟩
  · obtain ⟨-, hpair⟩ | ⟨-, hmin, -⟩ := sortIdx_cases t
    · rw [hpair]
      exact fun k hk => by bv_omega
    · exact hmin.first
  · obtain ⟨-, hpair⟩ | ⟨-, -, hmax⟩ := sortIdx_cases t
    · rw [hpair]
      exact fun k hne hk => by bv_omega
    · exact fun k _ hk => hmax.first k hk

/-- Refutes O27: `[1,3,3,3]` (V36) has its first minimum at 0 and its first maximum at 1, though its values differ. -/
theorem not_pairZeroOneOnlyWhenAllEqual : ¬ Obligations.PairZeroOneOnlyWhenAllEqual := by
  intro h
  exact absurd ((h ⟨1, 3, 3, 3⟩).1 (by decide) 1) (by decide)

/-! ### The branch table -/

/-- R55's branch, as a function of the pair and the one comparison. -/
theorem sortPermIdx_eq {t : Tuple} {mn mx p q : Index} (hpair : sortIdx t = (mn, mx)) (hrest : remaining mn mx = (p, q)) :
    sortPermIdx t = if t.get q < t.get p then ⟨mn, q, p, mx⟩ else ⟨mn, p, q, mx⟩ := by
  simp only [sortPermIdx, hpair, hrest]

/-- Every row of the table holds what R54, R55 and R62 compute. -/
theorem branchTable_rows :
    ∀ row ∈ branchTable, row.sel = selector row.mn row.mx ∧ remaining row.mn row.mx = (row.p, row.q) ∧
      row.keep = ⟨row.mn, row.p, row.q, row.mx⟩ ∧ row.swap = ⟨row.mn, row.q, row.p, row.mx⟩ ∧
      permEncode row.keep = row.keepCode ∧ permEncode row.swap = row.swapCode := by
  decide

theorem branchTable_isPerm : ∀ row ∈ branchTable, isPerm row.keep = true ∧ isPerm row.swap = true := by decide

/-- There is a row for each pair of different indices (R54). -/
theorem exists_branchRow : ∀ {mn mx : Index}, mn ≠ mx → ∃ row ∈ branchTable, row.mn = mn ∧ row.mx = mx := by
  decide

/-- The row of a tuple's pair decides its permutation by the one comparison of the remaining two (R55). -/
theorem exists_branchRow_of_tuple (t : Tuple) :
    ∃ row ∈ branchTable, (row.mn, row.mx) = sortIdx t ∧
      sortPermIdx t = if t.get row.q < t.get row.p then row.swap else row.keep := by
  obtain ⟨row, hrow, hmn, hmx⟩ := exists_branchRow (sortIdx_ne t)
  have hpair : (row.mn, row.mx) = sortIdx t := Prod.ext hmn hmx
  obtain ⟨-, hrest, hkeep, hswap, -, -⟩ := branchTable_rows row hrow
  refine ⟨row, hrow, hpair, ?_⟩
  rw [sortPermIdx_eq hpair.symm hrest, hkeep, hswap]

/-- Settles O28: the row of the tuple's pair, and the printed rows against the rules that they restate. -/
theorem sortFollowsTheBranchTable : Obligations.SortFollowsTheBranchTable := by
  refine ⟨fun t => ?_, branchTable_rows, by decide, rfl, by decide, branchTable_isPerm⟩
  obtain ⟨row, hrow, hpair, hperm⟩ := exists_branchRow_of_tuple t
  refine ⟨row, hrow, ?_, hpair, hperm⟩
  rw [(branchTable_rows row hrow).1, ← hpair]

/-! ### The sorter laws -/

theorem sortPermIdx_isPerm (t : Tuple) : isPerm (sortPermIdx t) = true := by
  obtain ⟨row, hrow, -, hperm⟩ := exists_branchRow_of_tuple t
  obtain ⟨hkeep, hswap⟩ := branchTable_isPerm row hrow
  rw [hperm]
  split
  · exact hswap
  · exact hkeep

theorem nonDecreasing_applyPerm_mk (t : Tuple) (a b c d : Index) :
    NonDecreasing (applyPerm t ⟨a, b, c, d⟩) ↔ t.get a ≤ t.get b ∧ t.get b ≤ t.get c ∧ t.get c ≤ t.get d := Iff.rfl

/-- The extremes bound the middle pair, and the one comparison puts that pair in order (R57 item 2). -/
theorem sorted_nonDecreasing (t : Tuple) : NonDecreasing (applyPerm t (sortPermIdx t)) := by
  rcases hrest : remaining (sortIdx t).1 (sortIdx t).2 with ⟨p, q⟩
  have hbounds := sortIdx_bounds t
  rw [sortPermIdx_eq Prod.mk.eta.symm hrest]
  split
  · next hlt =>
    rw [nonDecreasing_applyPerm_mk]
    exact ⟨(hbounds q).1, BitVec.le_of_lt hlt, (hbounds p).2⟩
  · next hge =>
    rw [nonDecreasing_applyPerm_mk]
    exact ⟨(hbounds p).1, BitVec.not_lt.1 hge, (hbounds q).2⟩

/-- Settles O29: the permutation is an outcome of the table, and the sorted tuple is its gather. -/
theorem sorterLaws : Obligations.SorterLaws := by
  intro t
  rw [sortPerm_fst, sortPerm_snd]
  exact ⟨sortPermIdx_isPerm t, sorted_nonDecreasing t, rfl, applyPerm_sameValues (sortPermIdx_isPerm t) t⟩

/-! ### SORT -/

/-- The two indices between the ends of a permutation, in ascending order (R55). -/
theorem remaining_of_isPerm :
    ∀ {p : Perm}, isPerm p = true → remaining p.e0 p.e3 = if p.e1 < p.e2 then (p.e1, p.e2) else (p.e2, p.e1) := by
  rw [forall_perm]
  decide

/-- An index whose value is strictly below all others is the pair's minimum, and likewise for the maximum. -/
theorem sortIdx_eq_of_strict {t : Tuple} {mn mx : Index} (hmn : ∀ k, k ≠ mn → t.get mn < t.get k)
    (hmx : ∀ k, k ≠ mx → t.get k < t.get mx) : sortIdx t = (mn, mx) := by
  refine Prod.ext (Decidable.byContradiction fun hne => ?_) (Decidable.byContradiction fun hne => ?_)
  · exact absurd (hmn _ hne) (BitVec.not_lt.2 (sortIdx_bounds t mn).1)
  · exact absurd (hmx _ hne) (BitVec.not_lt.2 (sortIdx_bounds t mx).2)

/-- A permutation whose gather strictly ascends is the one that the sorter finds (R57 item 5). -/
theorem sortPermIdx_eq_of_strict {t : Tuple} {p : Perm} (hp : isPerm p = true) (h01 : t.get p.e0 < t.get p.e1)
    (h12 : t.get p.e1 < t.get p.e2) (h23 : t.get p.e2 < t.get p.e3) : sortPermIdx t = p := by
  have hends : sortIdx t = (p.e0, p.e3) := by
    refine sortIdx_eq_of_strict (fun k hk => ?_) (fun k hk => ?_) <;>
      obtain rfl | rfl | rfl | rfl := index_eq_element_of_isPerm hp k <;> bv_omega
  have hrest := remaining_of_isPerm hp
  split at hrest
  · rw [sortPermIdx_eq hends hrest, if_neg (BitVec.not_lt.2 (BitVec.le_of_lt h12))]
  · rw [sortPermIdx_eq hends hrest, if_pos h12]

/-- SORT's whole response (R59). -/
theorem responseTo_sort (T : ThrTable) (r : Request) :
    responseTo T .sort r = ⟨(sortPerm r.va).2, packPerm (sortPerm r.va).1, 0, 0, 0⟩ := rfl

theorem sortIdx_of_four (x : Word) : sortIdx ⟨x, x, x, x⟩ = (0, 1) :=
  sortIdx_of_all_equal (forall_index.2 ⟨rfl, rfl, rfl, rfl⟩)

/-- Four equal values keep their order after the pair `(0, 1)`: the last comparison finds no strict descent (R59). -/
theorem sortPerm_of_four (x : Word) : sortPerm ⟨x, x, x, x⟩ = (⟨0, 2, 3, 1⟩, ⟨x, x, x, x⟩) := by
  have hrest : remaining 0 1 = (2#2, 3#2) := rfl
  have hperm : sortPermIdx ⟨x, x, x, x⟩ = ⟨0, 2, 3, 1⟩ := by
    rw [sortPermIdx_eq (sortIdx_of_four x) hrest, Quad_get_three, Quad_get_two,
      if_neg (BitVec.not_lt.2 (BitVec.le_refl x))]
    rfl
  refine Prod.ext ?_ ?_
  · rw [sortPerm_fst, hperm]
  · rw [sortPerm_snd, hperm, applyPerm_mk]
    rfl

/-- Settles O30: SORT's response, the two strict orders from the only permutation that sorts them, and the rule's examples. -/
theorem sortAnswersPermutationAndTuple : Obligations.SortAnswersPermutationAndTuple := by
  refine ⟨decodeOp_encodeOp .sort, fun s => ?_, fun x => ⟨sortIdx_of_four x, sortPerm_of_four x⟩, rfl,
    fun t h01 h12 h23 => ?_, fun t h32 h21 h10 => ?_, rfl, rfl, by decide, rfl, by decide, by decide, rfl, by decide, rfl, by decide, ?_⟩
  · rw [exec_eq_answer, responseTo_sort]
  · rw [sortPerm_fst]
    exact sortPermIdx_eq_of_strict (p := ⟨0, 1, 2, 3⟩) rfl h01 h12 h23
  · rw [sortPerm_fst]
    exact sortPermIdx_eq_of_strict (p := ⟨3, 2, 1, 0⟩) rfl h32 h21 h10
  · rw [answerOf_eq nib1_legal]
    decide

/-! ### The inverse from a permutation's code -/

/-- A permutation's code is valid, since its fields are two different elements (R67). -/
theorem codeValid_permEncode {p : Perm} (hp : isPerm p = true) : codeValid (permEncode p) = true := by
  obtain ⟨-, -, -, -, -, h23⟩ := (isPerm_iff p).1 hp
  simpa [codeValid, permEncode] using h23.symm

/-- Decoding undoes encoding on permutations (R67). -/
theorem permDecode_permEncode : ∀ {p : Perm}, isPerm p = true → permDecode (permEncode p) = p := by
  rw [forall_perm]
  decide

/-- The inverse from a permutation's code is the permutation's inverse (R65, R68). -/
theorem permInverse_permEncode {p : Perm} (hp : isPerm p = true) : permInverse (permEncode p) = invertPerm p := by
  rw [permInverse, codeValid_permEncode hp, if_pos rfl, permDecode_permEncode hp]

/-- Gathering by a permutation and then by its inverse restores the tuple (R60, R68). -/
theorem applyPerm_permInverse {p : Perm} (hp : isPerm p = true) (t : Tuple) :
    applyPerm (applyPerm t p) (permInverse (permEncode p)) = t :=
  Quad_ext_get fun i => by rw [applyPerm_get, applyPerm_get, permInverse_permEncode hp, get_invertPerm hp]

/-- The tuple that holds at each index that index. -/
def indexTuple : Tuple := identityPerm.map (BitVec.setWidth 32)

theorem indexTuple_get (i : Index) : indexTuple.get i = i.setWidth 32 := by revert i; decide

/-- Gathering twice restores every tuple exactly for a permutation that is its own inverse: the tuple of indices shows where two
gathers take each element (R60). -/
theorem applyPerm_twice_iff {p : Perm} (hp : isPerm p = true) :
    (∀ t : Tuple, applyPerm (applyPerm t p) p = t) ↔ p = permInverse (permEncode p) := by
  constructor
  · intro htwice
    have hinj : ∀ i j : Index, i.setWidth 32 = j.setWidth 32 → i = j := by decide
    have hself : ∀ i : Index, p.get (p.get i) = i := fun i =>
      hinj _ _ (by rw [← indexTuple_get, ← applyPerm_get, ← applyPerm_get, htwice, indexTuple_get])
    rw [permInverse_permEncode hp]
    refine Quad_ext_get fun i => ?_
    calc p.get i = p.get (p.get ((invertPerm p).get i)) := by rw [get_invertPerm hp]
      _ = (invertPerm p).get i := hself _
  · intro hinv t
    calc applyPerm (applyPerm t p) p = applyPerm (applyPerm t p) (permInverse (permEncode p)) := by rw [← hinv]
      _ = t := applyPerm_permInverse hp t

/-! ### PAPPLY -/

/-- PAPPLY's whole response (R60). -/
theorem responseTo_papply (T : ThrTable) (r : Request) :
    responseTo T .papply r = ⟨applyPerm r.va (unpackPerm r.pa), 0, 0, 0,
      if isPerm (unpackPerm r.pa) then 0x00 else 0x02⟩ := by
  simp only [responseTo, raise_zero, vectorOperand, permOperand]
  cases isPerm (unpackPerm r.pa) <;> rfl

/-- Settles O31: PAPPLY's response, and the inverse from a permutation's code. -/
theorem papplyAnswersTheGather : Obligations.PapplyAnswersTheGather := by
  refine ⟨decodeOp_encodeOp .papply, fun s => ?_, fun _ => rfl, rfl, fun _ => rfl, rfl,
    fun p t hp => applyPerm_permInverse hp t, fun p hp => applyPerm_twice_iff hp, ?_⟩
  · rw [exec_eq_answer, responseTo_papply]
    rfl
  · rw [answerOf_eq nib1_legal]
    decide

end Sys2Proof.Machine

/-! PROOFS. The permutation codec (R61 to R71). A valid code has a complement pair, and that pair with the code's fields is the decoded
array; the bijection, the inverse and the three operations' responses follow from this equation. -/

namespace Sys2Proof.Machine

/-! ### Valid codes and their complement pairs -/

theorem codeValid_iff (code : OrderCode) : codeValid code = true ↔ codeA code ≠ codeB code := by
  simp [codeValid]

theorem codeValid_eq_false_iff (code : OrderCode) : codeValid code = false ↔ codeA code = codeB code := by
  simp [codeValid]

/-- Settles O32: validity compares the two index fields, and the lists hold the values where they differ and where they agree. -/
theorem validOrderCodes : Obligations.ValidOrderCodes :=
  ⟨fun _ => ⟨rfl, rfl, rfl⟩, codeValid_iff, by decide, by decide⟩

/-- The key of R63 is the ascending pair, whichever of the two indices comes first. -/
theorem complement_comm : ∀ a b : Index, complement a b = complement b a := by decide

/-- The table has no key with equal indices (R63). -/
theorem complement_self : ∀ a : Index, complement a a = none := by decide

/-- Two different indices have an entry (R63). -/
theorem exists_complement_of_ne : ∀ {a b : Index}, a ≠ b → ∃ lo hi, complement a b = some (lo, hi) := by decide

/-- An entry is the two other indices in ascending order (R63). -/
theorem complement_some : ∀ a b lo hi : Index, complement a b = some (lo, hi) →
    lo < hi ∧ lo ≠ a ∧ lo ≠ b ∧ hi ≠ a ∧ hi ≠ b := by
  decide

/-- Settles O33: the six printed entries, and what holds of every entry. -/
theorem complementPairs : Obligations.ComplementPairs :=
  ⟨rfl, rfl, rfl, rfl, rfl, rfl, complement_comm, complement_self, complement_some⟩

/-! ### Decoding -/

/-- An invalid code decodes to the identity (R64, D8). -/
theorem permDecode_of_invalid {code : OrderCode} (hv : codeValid code = false) : permDecode code = identityPerm := by
  simp only [permDecode, (codeValid_eq_false_iff code).1 hv, complement_self]

/-- What a valid code decodes to: the complement pair, ascending when `c` is clear and descending when it is set, and then `b` and
`a` (R64). -/
theorem permDecode_cases {code : OrderCode} (hv : codeValid code = true) :
    ∃ lo hi, complement (codeA code) (codeB code) = some (lo, hi) ∧
      ((codeC code = 0#1 ∧ permDecode code = ⟨lo, hi, codeB code, codeA code⟩) ∨
        (codeC code = 1#1 ∧ permDecode code = ⟨hi, lo, codeB code, codeA code⟩)) := by
  obtain ⟨lo, hi, hpair⟩ := exists_complement_of_ne ((codeValid_iff code).1 hv)
  have hbit : ∀ c : BitVec 1, c = 0#1 ∨ c = 1#1 := by decide
  refine ⟨lo, hi, hpair, (hbit (codeC code)).imp (fun hc => ⟨hc, ?_⟩) (fun hc => ⟨hc, ?_⟩)⟩ <;>
    simp [permDecode, hpair, hc]

/-- A valid code decodes to a permutation: the fields differ, and the complement pair shares no index with them (R67). -/
theorem isPerm_permDecode {code : OrderCode} (hv : codeValid code = true) : isPerm (permDecode code) = true := by
  have hab := (codeValid_iff code).1 hv
  obtain ⟨lo, hi, hpair, hdecode⟩ := permDecode_cases hv
  obtain ⟨hlt, hloa, hlob, hhia, hhib⟩ := complement_some _ _ _ _ hpair
  have hne : lo ≠ hi := BitVec.ne_of_lt hlt
  rw [isPerm_iff]
  obtain ⟨-, hp⟩ | ⟨-, hp⟩ := hdecode <;> rw [hp]
  · exact ⟨hne, hlob, hloa, hhib, hhia, hab.symm⟩
  · exact ⟨hne.symm, hhib, hhia, hlob, hloa, hab.symm⟩

/-- The fields make up the code (R31). -/
theorem packCode_fields : ∀ code : OrderCode, packCode (codeA code) (codeB code) (codeC code) = code := by decide

/-- Encoding undoes decoding on valid codes: the complement pair ascends in the table, so its order shows `c` (R67). -/
theorem permEncode_permDecode {code : OrderCode} (hv : codeValid code = true) : permEncode (permDecode code) = code := by
  obtain ⟨lo, hi, hpair, hdecode⟩ := permDecode_cases hv
  obtain ⟨hlt, -⟩ := complement_some _ _ _ _ hpair
  obtain ⟨hc, hp⟩ | ⟨hc, hp⟩ := hdecode
  · rw [hp, permEncode, if_neg (BitVec.not_lt.2 (BitVec.le_of_lt hlt)), ← hc, packCode_fields]
  · rw [hp, permEncode, if_pos hlt, ← hc, packCode_fields]

/-- Settles O35: each of the two functions undoes the other. -/
theorem orderCodeBijection : Obligations.OrderCodeBijection :=
  ⟨fun _ hp => ⟨codeValid_permEncode hp, permDecode_permEncode hp⟩,
    fun _ hv => ⟨isPerm_permDecode hv, permEncode_permDecode hv⟩⟩

/-! ### Inverting -/

/-- Different positions of a permutation hold different indices (R51). -/
theorem get_injective_of_isPerm {p : Perm} (hp : isPerm p = true) {i j : Index} (h : p.get i = p.get j) : i = j :=
  Decidable.byContradiction fun hne => (isPerm_iff_get p).1 hp i j hne h

/-- The inverse of R65's loop is two-sided. -/
theorem invertPerm_get {p : Perm} (hp : isPerm p = true) (i : Index) : (invertPerm p).get (p.get i) = i :=
  get_injective_of_isPerm hp (get_invertPerm hp (p.get i))

theorem permInverse_of_valid {code : OrderCode} (hv : codeValid code = true) :
    permInverse code = invertPerm (permDecode code) :=
  if_pos hv

/-- An invalid code inverts to the identity (R65, D8). -/
theorem permInverse_of_invalid {code : OrderCode} (hv : codeValid code = false) : permInverse code = identityPerm :=
  if_neg (by simp [hv])

theorem permInverse_get_permDecode {code : OrderCode} (hv : codeValid code = true) (i : Index) :
    (permInverse code).get ((permDecode code).get i) = i := by
  rw [permInverse_of_valid hv, invertPerm_get (isPerm_permDecode hv)]

theorem permDecode_get_permInverse {code : OrderCode} (hv : codeValid code = true) (i : Index) :
    (permDecode code).get ((permInverse code).get i) = i := by
  rw [permInverse_of_valid hv, get_invertPerm (isPerm_permDecode hv)]

/-- Settles O36: a valid code decodes to a permutation, which R65's loop inverts on both sides. -/
theorem inverseOfADecodedPermutation : Obligations.InverseOfADecodedPermutation :=
  ⟨fun _ i hv => ⟨permInverse_get_permDecode hv i, permDecode_get_permInverse hv i⟩,
    fun _ hv => ⟨permInverse_of_invalid hv, permDecode_of_invalid hv⟩⟩

/-- A decoded permutation that is its own inverse is the inverse from its code (R71). -/
theorem permInverse_eq_permDecode {code : OrderCode} (hv : codeValid code = true)
    (hself : ∀ i : Index, (permDecode code).get ((permDecode code).get i) = i) : permInverse code = permDecode code :=
  Quad_ext_get fun i =>
    calc (permInverse code).get i
        = (permDecode code).get ((permDecode code).get ((permInverse code).get i)) := (hself _).symm
      _ = (permDecode code).get i := by rw [permDecode_get_permInverse hv]

/-- Settles O37: the first part is the gather by the inverse; decoding the code gives the permutation again, and gathering by it twice
restores every tuple only for an involution. -/
theorem inverseRestoresEveryTuple : Obligations.InverseRestoresEveryTuple := by
  refine ⟨fun _ t hp => applyPerm_permInverse hp t, fun p hp hne => ?_, rfl, rfl, rfl, rfl, rfl⟩
  rw [permDecode_permEncode hp, ← not_forall]
  exact fun htwice => hne ((applyPerm_twice_iff hp).1 htwice)

/-! ### The code table -/

/-- Every row of the table holds what R31, R32, R64 and R65 compute. -/
theorem codeTable_rows :
    ∀ row ∈ codeTable, row.a = codeA row.code ∧ row.b = codeB row.code ∧ row.c = codeC row.code ∧
      row.valid = codeValid row.code ∧ row.decoded = permDecode row.code ∧ row.decodedPacked = packPerm row.decoded ∧
      row.inverse = permInverse row.code ∧ row.inversePacked = packPerm row.inverse ∧
      row.involution = if codeValid row.code then some (decide (permDecode row.code = permInverse row.code)) else none := by
  decide

/-- Settles O34: the printed rows, one for each code, against the formulas that they restate. -/
theorem codeTableMatchesTheFormulas : Obligations.CodeTableMatchesTheFormulas :=
  ⟨rfl, codeTable_rows, rfl⟩

/-! ### PENC, PDEC and PINV -/

/-- The status word of an operation whose one error is that its operand fails a check (R14, R92). -/
theorem raise_not_zero (b : StatusBit) (ok : Bool) : raise b (!ok) 0 = if ok then 0#8 else 1#8 <<< statusPos b := by
  rw [raise_zero]
  cases ok <;> rfl

/-- PENC's whole response (R69). -/
theorem responseTo_penc (T : ThrTable) (r : Request) :
    responseTo T .penc r = ⟨⟨0, 0, 0, 0⟩, 0, codeResult (permEncode (unpackPerm r.pa)), 0,
      if isPerm (unpackPerm r.pa) then 0x00 else 0x02⟩ := by
  simp only [responseTo, raise_not_zero]
  rfl

/-- PDEC's whole response (R70). -/
theorem responseTo_pdec (T : ThrTable) (r : Request) :
    responseTo T .pdec r = ⟨⟨0, 0, 0, 0⟩, packPerm (permDecode (r.ba.extractLsb' 0 5)), 0, 0,
      if codeValid (r.ba.extractLsb' 0 5) then 0x00 else 0x01⟩ := by
  simp only [responseTo, raise_not_zero]
  rfl

/-- PINV's whole response (R71). -/
theorem responseTo_pinv (T : ThrTable) (r : Request) :
    responseTo T .pinv r = ⟨⟨0, 0, 0, 0⟩, packPerm (permInverse (r.ba.extractLsb' 0 5)), 0, 0,
      if codeValid (r.ba.extractLsb' 0 5) then 0x00 else 0x01⟩ := by
  simp only [responseTo, raise_not_zero]
  rfl

/-- The result byte of an order-code has the code's value (R33). -/
theorem codeResult_toNat (code : OrderCode) : (codeResult code).toNat = code.toNat :=
  BitVec.toNat_setWidth_of_le (by decide)

/-- R62's packing as arithmetic, for every array, valid or not. -/
theorem permEncode_toNat (p : Perm) :
    (permEncode p).toNat = 8 * p.e3.toNat + 2 * p.e2.toNat + if p.e0 > p.e1 then 1 else 0 := by
  have hbit : (if p.e1 < p.e0 then 1#1 else 0#1).toNat = if p.e0 > p.e1 then 1 else 0 := by
    split <;> rfl
  rw [permEncode, packCode, toNat_append_eq_add, toNat_append_eq_add, hbit]
  omega

/-- Settles O38: PENC's response, its code as arithmetic, and the rule's examples. -/
theorem pencAnswersTheCode : Obligations.PencAnswersTheCode := by
  refine ⟨decodeOp_encodeOp .penc, fun s => ⟨codeResult (permEncode (unpackPerm s.req.pa)), ?_, ?_⟩, ?_⟩
  · rw [exec_eq_answer, responseTo_penc]
  · rw [codeResult_toNat, permEncode_toNat]
    rfl
  · simp only [List.map, answerOf_eq nib1_legal]
    decide

/-- Settles O39: PDEC's response, and the rule's examples. -/
theorem pdecAnswersThePermutation : Obligations.PdecAnswersThePermutation := by
  refine ⟨decodeOp_encodeOp .pdec, fun s => ?_, ?_⟩
  · rw [exec_eq_answer, responseTo_pdec]
  · simp only [List.map, answerOf_eq nib1_legal]
    decide

/-- Settles O40: PINV's response, the inverse of an involution, and the rule's examples beside PDEC's. -/
theorem pinvAnswersTheInverse : Obligations.PinvAnswersTheInverse := by
  refine ⟨decodeOp_encodeOp .pinv, fun s => ?_, fun _ hv hself => permInverse_eq_permDecode hv hself, ?_, ?_⟩
  · rw [exec_eq_answer, responseTo_pinv]
  · simp only [List.map, answerOf_eq nib1_legal]
    decide
  · simp only [List.map, answerOf_eq nib1_legal]
    decide

end Sys2Proof.Machine

/-! PROOFS. The delta transform and the header packer (R72 to R80). Adding back a difference carries exactly when the difference
borrowed, so `deltaInv` restores what `deltaFwd` took and repeats its `wrap`; the laws of R74 are read off from this one equation. -/

namespace Sys2Proof.Machine

/-! ### The primitives of R3 -/

/-- `add32` undoes `sub32`, with a borrow as without (R74). -/
@[simp] theorem add32_sub32 (x y : Word) : add32 (sub32 x y) y = x := BitVec.sub_add_cancel x y

theorem add32_comm (x y : Word) : add32 x y = add32 y x := BitVec.add_comm x y

/-- A difference that does not borrow is the exact one (R3). -/
theorem sub32_toNat {x y : Word} (h : y ≤ x) : (sub32 x y).toNat = x.toNat - y.toNat := BitVec.toNat_sub_of_le h

@[simp] theorem add32_zero (x : Word) : add32 x 0#32 = x := BitVec.add_zero x

@[simp] theorem zero_add32 (x : Word) : add32 0#32 x = x := BitVec.zero_add x

/-- Adding 0 to a word leaves the exact sum below `2^32` (R3). -/
@[simp] theorem carry_zero (x : Word) : carry x 0#32 = false := by
  rw [Bool.eq_false_iff, Ne, carry_iff, Nat.not_le]
  exact x.isLt

@[simp] theorem zero_carry (x : Word) : carry 0#32 x = false := by rw [carry_comm, carry_zero]

/-! ### The two transforms -/

/-- The forward transform's base and differences (R72). -/
theorem deltaFwd_d (T : ThrTable) (s : Tuple) :
    (deltaFwd T s).d =
      ⟨sub32 s.e0 (thr T (bestClass T s.e0)), sub32 s.e1 s.e0, sub32 s.e2 s.e1, sub32 s.e3 s.e2⟩ := rfl

theorem deltaFwd_wrap (T : ThrTable) (s : Tuple) : (deltaFwd T s).wrap = !decide (NonDecreasing s) := by
  rw [Bool.eq_iff_iff, deltaFwd_wrap_iff, Bool.not_eq_true', decide_eq_false_iff_not]

/-- The inverse transform sets `wrap` when one of its four additions carries (R73). -/
theorem deltaInv_wrap_iff (T : ThrTable) (m : Tuple) (cls : OffsetClass) :
    (deltaInv T m cls).wrap = true ↔
      2 ^ 32 ≤ m.e0.toNat + (thr T cls).toNat ∨ 2 ^ 32 ≤ (deltaInv T m cls).s.e0.toNat + m.e1.toNat ∨
      2 ^ 32 ≤ (deltaInv T m cls).s.e1.toNat + m.e2.toNat ∨ 2 ^ 32 ≤ (deltaInv T m cls).s.e2.toNat + m.e3.toNat := by
  simp only [deltaInv, Bool.or_eq_true, carry_iff, or_assoc]

/-- From zero magnitudes the inverse gives the threshold four times (R78). -/
theorem deltaInv_zero (T : ThrTable) (k : OffsetClass) :
    deltaInv T ⟨0, 0, 0, 0⟩ k = ⟨⟨thr T k, thr T k, thr T k, thr T k⟩, false⟩ := by
  simp [deltaInv]

/-- The base never borrows (R47). -/
theorem borrow_thr_bestClass {T : ThrTable} (hl : T.legal = true) (n : Word) :
    borrow n (thr T (bestClass T n)) = false := by
  obtain ⟨-, -, hborrow, -⟩ := classifierIsTight T n hl
  exact hborrow

/-- The inverse transform restores every tuple, sorted or not, and wraps exactly where the forward one did: each addition takes
back one difference and carries when that difference borrowed, and the base never borrows (R74). -/
theorem deltaInv_deltaFwd {T : ThrTable} (hl : T.legal = true) (s : Tuple) :
    deltaInv T (deltaFwd T s).d (deltaFwd T s).cls = ⟨s, (deltaFwd T s).wrap⟩ := by
  have hrestore : ∀ x y : Word, add32 y (sub32 x y) = x := fun x y => by rw [add32_comm, add32_sub32]
  have hcarry : ∀ x y : Word, carry y (sub32 x y) = borrow x y := fun x y => by rw [carry_comm, carry_sub32]
  simp only [deltaFwd, deltaInv, add32_sub32, hrestore, carry_sub32, hcarry, borrow_thr_bestClass hl, Bool.false_or]

/-! ### The bounds of R74 -/

/-- The first element is at least the threshold of its class (R47). -/
theorem thr_cls_le {T : ThrTable} (hl : T.legal = true) (s : Tuple) : thr T (deltaFwd T s).cls ≤ s.e0 :=
  (bestClass_scan hl s.e0).1

/-- The base is the exact distance from the threshold of the class. -/
theorem deltaFwd_base_toNat {T : ThrTable} (hl : T.legal = true) (s : Tuple) :
    (deltaFwd T s).d.e0.toNat = s.e0.toNat - (thr T (deltaFwd T s).cls).toNat :=
  sub32_toNat (thr_cls_le hl s)

/-- Below class 7 the base is less than the distance to the next threshold. -/
theorem deltaFwd_base_lt {T : ThrTable} (hl : T.legal = true) {s : Tuple} (hcls : (deltaFwd T s).cls < 7) :
    (deltaFwd T s).d.e0.toNat < (thr T ((deltaFwd T s).cls + 1)).toNat - (thr T (deltaFwd T s).cls).toNat := by
  have hsucc : ∀ k : OffsetClass, k < 7 → k < k + 1 := by decide
  have hnext : s.e0 < thr T ((deltaFwd T s).cls + 1) := (lt_thr_iff_bestClass_lt hl).2 (hsucc _ hcls)
  rw [deltaFwd_base_toNat hl]
  exact Nat.sub_lt_sub_right (thr_cls_le hl s) hnext

/-- Under NIB1 class 0 ends at 14, one below the threshold 15 of class 1. -/
theorem deltaFwd_base_le_of_cls_zero {s : Tuple} (hcls : (deltaFwd Config.nib1 s).cls = 0) :
    (deltaFwd Config.nib1 s).d.e0 ≤ 14 := by
  have hlt := deltaFwd_base_lt nib1_legal (s := s) (hcls ▸ by decide)
  have hgap : (thr Config.nib1 (0 + 1)).toNat - (thr Config.nib1 0).toNat = 15 := rfl
  rw [hcls, hgap] at hlt
  exact Nat.le_of_lt_succ hlt

/-- The differences of a non-decreasing tuple are exact, so with the threshold they add up to the largest value. -/
theorem deltaFwd_sum {T : ThrTable} (hl : T.legal = true) {s : Tuple} (hs : NonDecreasing s) :
    (deltaFwd T s).d.e0.toNat + (deltaFwd T s).d.e1.toNat + (deltaFwd T s).d.e2.toNat + (deltaFwd T s).d.e3.toNat +
      (thr T (deltaFwd T s).cls).toNat = s.e3.toNat := by
  obtain ⟨h01, h12, h23⟩ := hs
  have hbase := deltaFwd_base_toNat hl s
  have h1 : (deltaFwd T s).d.e1.toNat = s.e1.toNat - s.e0.toNat := sub32_toNat h01
  have h2 : (deltaFwd T s).d.e2.toNat = s.e2.toNat - s.e1.toNat := sub32_toNat h12
  have h3 : (deltaFwd T s).d.e3.toNat = s.e3.toNat - s.e2.toNat := sub32_toNat h23
  have hthr := thr_cls_le hl s
  rw [BitVec.le_def] at h01 h12 h23 hthr
  omega

/-- Settles O41: the round trip with its `wrap`, the exact base, and the sum of exact differences. -/
theorem deltaLaws : Obligations.DeltaLaws := by
  refine ⟨fun T s hl hs => ?_, fun T s hl => ?_, fun T s hl => ⟨?_, deltaFwd_base_lt hl⟩,
    fun _ => deltaFwd_base_le_of_cls_zero, fun _ _ hl hs => deltaFwd_sum hl hs⟩
  · have hwrap : (deltaFwd T s).wrap = false := by simp [deltaFwd_wrap, hs]
    exact ⟨hwrap, by rw [deltaInv_deltaFwd hl, hwrap]⟩
  · rw [deltaInv_deltaFwd hl]
    exact ⟨rfl, fun hs => ⟨(deltaFwd_wrap_iff T s).2 hs, (deltaFwd_wrap_iff T s).2 hs⟩⟩
  · rw [BitVec.le_def, deltaFwd_base_toNat hl]
    exact Nat.sub_le _ _

/-! ### DFWD and DINV -/

/-- DFWD's whole response (R77). -/
theorem responseTo_dfwd (T : ThrTable) (r : Request) :
    responseTo T .dfwd r = ⟨(deltaFwd T r.va).d, 0, 0, (bestClass T r.va.e0).setWidth 8,
      if NonDecreasing r.va then 0x00 else 0x04⟩ := by
  simp only [responseTo, vectorOperand, deltaFwd_wrap, raise_not_zero, decide_eq_true_eq]
  rfl

/-- DINV's whole response (R78). -/
theorem responseTo_dinv (T : ThrTable) (r : Request) :
    responseTo T .dinv r = ⟨(deltaInv T r.va (r.bb.extractLsb' 0 3)).s, 0, 0, 0,
      if (deltaInv T r.va (r.bb.extractLsb' 0 3)).wrap then 0x04 else 0x00⟩ := by
  simp only [responseTo, raise_zero]
  rfl

/-- Settles O43: DFWD's response, and the rule's examples. -/
theorem dfwdAnswersTheDeltas : Obligations.DfwdAnswersTheDeltas := by
  refine ⟨decodeOp_encodeOp .dfwd, fun s => ?_, ?_⟩
  · rw [exec_eq_answer, responseTo_dfwd, deltaFwd_d]
    rfl
  · simp only [answerOf_eq nib1_legal]
    decide

/-- Settles O44: DINV's response with its running sums, the sums of zero magnitudes, and the rule's examples. -/
theorem dinvAnswersTheSums : Obligations.DinvAnswersTheSums := by
  refine ⟨decodeOp_encodeOp .dinv, fun s => ⟨_, _, _, _, rfl, rfl, rfl, rfl, ?_⟩, deltaInv_zero, ?_⟩
  · simp only [exec_eq_answer, responseTo_dinv, deltaInv_wrap_iff]
    rfl
  · simp only [answerOf_eq nib1_legal]
    decide

/-! ### The header byte -/

/-- The header byte as the code's byte under the class's, shifted past the code (R75). -/
theorem hdrPack_eq_or (code : OrderCode) (cls : OffsetClass) :
    hdrPack code cls = codeResult code ||| (classResult cls <<< 5) := by
  rw [← BitVec.setWidth_eq (hdrPack code cls), hdrPack, BitVec.setWidth_append_eq_shiftLeft_setWidth_or, BitVec.or_comm]
  rfl

/-- Splitting a packed header gives its fields (R76). -/
@[simp] theorem hdrUnpack_hdrPack (code : OrderCode) (cls : OffsetClass) : hdrUnpack (hdrPack code cls) = (code, cls) :=
  Prod.ext BitVec.extractLsb'_append_eq_right BitVec.extractLsb'_append_eq_left

/-- The two fields of a byte, joined again, are the byte (R76). -/
@[simp] theorem hdrPack_hdrUnpack (h : Byte) : hdrPack (hdrUnpack h).1 (hdrUnpack h).2 = h :=
  calc hdrPack (hdrUnpack h).1 (hdrUnpack h).2
      = h.extractLsb' 0 8 := BitVec.extractLsb'_append_extractLsb'_eq_extractLsb' rfl
    _ = h := BitVec.extractLsb'_eq_self

/-- Settles O42: the packed byte as an OR, and the two inverses. -/
theorem headerRoundTrip : Obligations.HeaderRoundTrip :=
  ⟨fun code cls => ⟨hdrPack_eq_or code cls, hdrUnpack_hdrPack code cls⟩, fun h => ⟨rfl, hdrPack_hdrUnpack h⟩⟩

/-! ### HPACK and HUNPK -/

/-- The code of bits 4:0, on a byte port, is those bits of the byte (R33). -/
theorem codeResult_extract : ∀ b : Byte, codeResult (b.extractLsb' 0 5) = b &&& 0x1F := by decide

/-- The class of bits 2:0, on a byte port, is those bits of the byte (R33). -/
theorem classResult_extract_low : ∀ b : Byte, classResult (b.extractLsb' 0 3) = b &&& 0x07 := by decide

/-- The class of a header's bits 7:5, on a byte port, is the header shifted past its code (R33). -/
theorem classResult_extract_high : ∀ b : Byte, classResult (b.extractLsb' 5 3) = b >>> 5 := by decide

/-- HPACK's whole response (R79). -/
theorem responseTo_hpack (T : ThrTable) (r : Request) :
    responseTo T .hpack r = ⟨⟨0, 0, 0, 0⟩, 0, (r.ba &&& 0x1F) ||| ((r.bb &&& 0x07) <<< 5), 0,
      if codeValid (r.ba.extractLsb' 0 5) then 0x00 else 0x01⟩ := by
  simp only [responseTo, hdrPack_eq_or, codeOperand, classOperand, codeResult_extract, classResult_extract_low,
    raise_not_zero]
  rfl

/-- HUNPK's whole response (R80). -/
theorem responseTo_hunpk (T : ThrTable) (r : Request) :
    responseTo T .hunpk r = ⟨⟨0, 0, 0, 0⟩, 0, r.ba &&& 0x1F, r.ba >>> 5,
      if codeValid (r.ba.extractLsb' 0 5) then 0x00 else 0x01⟩ := by
  simp only [responseTo, hdrUnpack_headerOperand, codeOperand, codeResult_extract, classResult_extract_high,
    raise_not_zero]
  rfl

/-- Settles O45: HPACK's response, and the rule's examples. -/
theorem hpackAnswersTheHeader : Obligations.HpackAnswersTheHeader := by
  refine ⟨decodeOp_encodeOp .hpack, fun s => ?_, ?_⟩
  · rw [exec_eq_answer, responseTo_hpack]
  · simp only [List.map, answerOf_eq nib1_legal]
    decide

/-- Settles O46: HUNPK's response, and the rule's examples. -/
theorem hunpkAnswersTheFields : Obligations.HunpkAnswersTheFields := by
  refine ⟨decodeOp_encodeOp .hunpk, fun s => ?_, ?_⟩
  · rw [exec_eq_answer, responseTo_hunpk]
  · simp only [List.map, answerOf_eq nib1_legal]
    decide

end Sys2Proof.Machine

/-! PROOFS. The block transform (R81 to R88) and the host around it (R21 to R25). Decoding undoes each part of an encoded block with the
inverse of that part's own law: the header's fields, the deltas of a sorted tuple, and the gather by the sorting permutation. -/

namespace Sys2Proof.Machine

/-! ### Decoding an encoded block -/

/-- The header's code is the sorting permutation's, so the gather by its inverse restores the tuple that the deltas give back
sorted, and a sorted tuple's deltas do not wrap (R87). -/
theorem decodeBlock_encodeBlock {T : ThrTable} (hl : T.legal = true) (t : Tuple) :
    decodeBlock T (encodeBlock T t).hdr (encodeBlock T t).d =
      ⟨t, permInverse (permEncode (sortPermIdx t)), permEncode (sortPermIdx t), (encodeBlock T t).cls, false, false⟩ := by
  have hperm := sortPermIdx_isPerm t
  have hdelta : deltaInv T (encodeBlock T t).d (encodeBlock T t).cls = ⟨applyPerm t (sortPermIdx t), false⟩ := by
    have hwrap : (deltaFwd T (applyPerm t (sortPermIdx t))).wrap = false := by
      simp [deltaFwd_wrap, sorted_nonDecreasing t]
    rw [← hwrap]
    exact deltaInv_deltaFwd hl _
  have hhdr : hdrUnpack (encodeBlock T t).hdr = (permEncode (sortPermIdx t), (encodeBlock T t).cls) :=
    hdrUnpack_hdrPack _ _
  rw [decodeBlock_eq, hhdr, hdelta, applyPerm_permInverse hperm, codeValid_permEncode hperm]
  rfl

/-- The order-code of an encoded block's header is a permutation's, so it is valid (R88). -/
theorem codeValid_encodeBlock (T : ThrTable) (t : Tuple) : codeValid (hdrUnpack (encodeBlock T t).hdr).1 = true := by
  rw [encodeBlock_eq, hdrUnpack_hdrPack, sortPerm_fst]
  exact codeValid_permEncode (sortPermIdx_isPerm t)

/-! ### The round trip -/

/-- A request whose `OP` is an operation's is answered with that operation's response (R36). -/
theorem issue_op {s : State} (hl : s.thr.legal = true) (i : Instr) {r : Request} (hr : r.op = encodeOp i) :
    issue r s = .ok (responseTo s.thr i r, s.served r) := by
  rw [issue_eq hl, hr, decodeOp_encodeOp]

theorem responseTo_enc_bz (T : ThrTable) (r : Request) : (responseTo T .enc r).bz = (encodeBlock T r.va).hdr := rfl

theorem responseTo_enc_vz (T : ThrTable) (r : Request) : (responseTo T .enc r).vz = (encodeBlock T r.va).d := rfl

theorem responseTo_dec_st (T : ThrTable) (r : Request) :
    (responseTo T .dec r).st =
      raise .wrap (decodeBlock T r.ba r.va).wrap (raise .codeErr (decodeBlock T r.ba r.va).cerr 0) := rfl

/-- Settles O51: the functions undo each other, and the two operations answer what the functions give. -/
theorem blockRoundTrip : Obligations.BlockRoundTrip := by
  refine ⟨fun T t hl => ?_, fun s t hl => ?_⟩
  · rw [decodeBlock_encodeBlock hl]
    exact ⟨rfl, rfl, rfl⟩
  · refine ⟨(encodeBlock s.thr t).hdr, (encodeBlock s.thr t).d, _, _, _, _, issue_op hl .enc rfl,
      responseTo_enc_bz _ _, responseTo_enc_vz _ _, issue_op (s := s.served _) hl .dec rfl, ?_, ?_⟩
    · rw [responseTo_dec_vz, State.served_thr, decodeBlock_encodeBlock hl]
    · rw [responseTo_dec_st, State.served_thr, decodeBlock_encodeBlock hl]
      rfl

/-- Host encode is one ENC request, whose header byte and layer bytes follow the buffer (R24). -/
theorem hostEncode_eq (L : VarLayer) {s : State} (hl : s.thr.legal = true) (t : Tuple) (buffer : List Byte) :
    hostEncode L t buffer s =
      .ok (buffer ++ (encodeBlock s.thr t).hdr :: L.payload (encodeBlock s.thr t).d,
        s.served { requestFor .enc with va := t }) := by
  have henc := issue_op hl .enc (r := { requestFor .enc with va := t }) rfl
  simp only [hostEncode, henc, responseTo_enc_bz, responseTo_enc_vz, VarLayer.compress, List.append_assoc,
    List.singleton_append]

/-- Settles O54: the layer's law gives back the deltas and the bytes behind, and DEC of the header and the deltas is the tuple. -/
theorem hostRoundTrip : Obligations.HostRoundTrip := by
  intro L t buffer rest s hl
  have hdecode := hostDecode_read (s := s.served { requestFor .enc with va := t }) hl
    (L.law (encodeBlock s.thr t).d rest) (encodeBlock s.thr t).hdr
  rw [State.served_thr, decodeBlock_encodeBlock hl] at hdecode
  exact ⟨_, _, _, _, hostEncode_eq L hl t buffer, codeValid_encodeBlock s.thr t, hdecode⟩

/-! ### ENC and DEC -/

/-- ENC's whole response (R83). -/
theorem responseTo_enc (T : ThrTable) (r : Request) :
    responseTo T .enc r =
      ⟨(deltaFwd T (sortPerm r.va).2).d, packPerm (sortPerm r.va).1,
        hdrPack (permEncode (sortPerm r.va).1) (bestClass T (sortPerm r.va).2.e0),
        classResult (bestClass T (sortPerm r.va).2.e0), 0⟩ := by
  simp only [responseTo, vectorOperand, encodeBlock_eq]
  rfl

/-- Two causes raised over 0 are the two bits together (R92). -/
theorem raise_wrap_codeErr (w ok : Bool) :
    raise .wrap w (raise .codeErr (!ok) 0) = (if ok then 0x00 else 0x01) ||| (if w then 0x04 else 0x00) := by
  cases w <;> cases ok <;> rfl

/-- DEC's whole response (R84). -/
theorem responseTo_dec (T : ThrTable) (r : Request) :
    responseTo T .dec r =
      ⟨applyPerm (deltaInv T r.va (r.ba.extractLsb' 5 3)).s (permInverse (r.ba.extractLsb' 0 5)),
        packPerm (permInverse (r.ba.extractLsb' 0 5)), r.ba &&& 0x1F, r.ba >>> 5,
        (if codeValid (r.ba.extractLsb' 0 5) then 0x00 else 0x01) |||
          (if (deltaInv T r.va (r.ba.extractLsb' 5 3)).wrap then 0x04 else 0x00)⟩ := by
  rw [← raise_wrap_codeErr, ← codeResult_extract, ← classResult_extract_high]
  rfl

/-- Settles O47: ENC's response, the two fields of its header, and the rule's examples. -/
theorem encAnswersTheBlock : Obligations.EncAnswersTheBlock := by
  refine ⟨decodeOp_encodeOp .enc, fun s => ⟨(sortPerm s.req.va).1, (sortPerm s.req.va).2,
    bestClass s.thr (sortPerm s.req.va).2.e0, Prod.mk.eta, rfl, ?_, ?_, ?_⟩, ?_⟩
  · rw [exec_eq_answer, responseTo_enc, deltaFwd_d]
    rfl
  · exact congrArg Prod.snd (hdrUnpack_hdrPack _ _)
  · rw [unpackPerm_packPerm]
    exact congrArg Prod.fst (hdrUnpack_hdrPack _ _)
  · simp only [answerOf_eq nib1_legal]
    decide

/-- Settles O48: DEC's response, and the rule's examples. -/
theorem decAnswersTheTuple : Obligations.DecAnswersTheTuple := by
  refine ⟨decodeOp_encodeOp .dec, fun s => ⟨_, _, _, rfl, rfl, ?_⟩, ?_⟩
  · rw [exec_eq_answer, responseTo_dec]
    rfl
  · simp only [answerOf_eq nib1_legal]
    decide

/-! ### The two compositions -/

/-- DFWD of a non-decreasing tuple reports no error (R77). -/
theorem responseTo_dfwd_of_nonDecreasing (T : ThrTable) {r : Request} (hs : NonDecreasing r.va) :
    responseTo T .dfwd r = ⟨(deltaFwd T r.va).d, 0, 0, classResult (bestClass T r.va.e0), 0⟩ := by
  rw [responseTo_dfwd, if_pos hs]
  rfl

/-- PENC of a packed permutation answers its code with no error (R69). -/
theorem responseTo_penc_packPerm (T : ThrTable) {r : Request} {p : Perm} (hp : isPerm p = true) (hr : r.pa = packPerm p) :
    responseTo T .penc r = ⟨⟨0, 0, 0, 0⟩, 0, codeResult (permEncode p), 0, 0⟩ := by
  rw [responseTo_penc, hr, unpackPerm_packPerm, if_pos hp]

/-- The operand read from an order-code's result byte is the code (R33). -/
theorem extract_codeResult : ∀ code : OrderCode, (codeResult code).extractLsb' 0 5 = code := by decide

/-- The operand read from a class's result byte is the class (R33). -/
theorem extract_classResult : ∀ cls : OffsetClass, (classResult cls).extractLsb' 0 3 = cls := by decide

/-- HPACK of a valid code and a class, as results hold them, answers their header with no error (R79). -/
theorem responseTo_hpack_results (T : ThrTable) {r : Request} {code : OrderCode} {cls : OffsetClass}
    (hv : codeValid code = true) (hba : r.ba = codeResult code) (hbb : r.bb = classResult cls) :
    responseTo T .hpack r = ⟨⟨0, 0, 0, 0⟩, 0, hdrPack code cls, 0, 0⟩ := by
  simp only [responseTo, codeOperand, classOperand, hba, hbb, extract_codeResult, extract_classResult, raise_not_zero, hv]
  rfl

/-- A legal core answers a request with the response function's value, and its table stays for the next one (R12, R16). -/
theorem exists_issue {T : ThrTable} (hl : T.legal = true) {s : State} (hs : s.thr = T) (i : Instr) {r : Request}
    {resp : Response} (hr : r.op = encodeOp i) (hresp : responseTo T i r = resp) :
    ∃ s' : State, issue r s = .ok (resp, s') ∧ s'.thr = T := by
  subst hs hresp
  exact ⟨s.served r, issue_op hl i hr, s.served_thr r⟩

/-- Settles O49: the sorted tuple and its permutation raise no error, so each request has the response that the next one reads, and the
header packed from the two result bytes is ENC's. -/
theorem encIsAComposition : Obligations.EncIsAComposition := by
  intro s t hl
  obtain ⟨hperm, hsorted, -, -⟩ := sorterLaws t
  obtain ⟨s1, hsort, hs1⟩ := exists_issue hl (rfl : s.thr = s.thr) .sort (r := { requestFor .sort with va := t }) rfl
    (responseTo_sort _ _)
  obtain ⟨s2, hdfwd, hs2⟩ := exists_issue hl hs1 .dfwd (r := { requestFor .dfwd with va := (sortPerm t).2 }) rfl
    (responseTo_dfwd_of_nonDecreasing _ hsorted)
  obtain ⟨s3, hpenc, hs3⟩ := exists_issue hl hs2 .penc (r := { requestFor .penc with pa := packPerm (sortPerm t).1 }) rfl
    (responseTo_penc_packPerm _ hperm rfl)
  obtain ⟨s4, hhpack, hs4⟩ := exists_issue hl hs3 .hpack
    (r := { requestFor .hpack with
      ba := codeResult (permEncode (sortPerm t).1), bb := classResult (bestClass s.thr (sortPerm t).2.e0) }) rfl
    (responseTo_hpack_results _ (codeValid_permEncode hperm) rfl rfl)
  obtain ⟨s5, henc, -⟩ := exists_issue hl hs4 .enc (r := { requestFor .enc with va := t }) rfl (responseTo_enc _ _)
  exact ⟨_, _, _, _, _, _, s1, s2, s3, s4, s5, hsort, hdfwd, hpenc, hhpack, henc⟩

/-- The inverse of a permutation is a permutation: where two of its elements agree, the permutation takes them to one index. -/
theorem isPerm_invertPerm {p : Perm} (hp : isPerm p = true) : isPerm (invertPerm p) = true := by
  rw [isPerm_iff_get]
  intro i j hne heq
  apply hne
  rw [← get_invertPerm hp i, heq, get_invertPerm hp j]

/-- Every code inverts to a permutation, an invalid one to the identity (R65). -/
theorem isPerm_permInverse (code : OrderCode) : isPerm (permInverse code) = true := by
  cases hv : codeValid code with
  | false => rw [permInverse_of_invalid hv]; rfl
  | true => rw [permInverse_of_valid hv]; exact isPerm_invertPerm (isPerm_permDecode hv)

/-- PAPPLY of a packed permutation gathers with no error (R60). -/
theorem responseTo_papply_packPerm (T : ThrTable) {r : Request} {p : Perm} (hp : isPerm p = true)
    (hr : r.pa = packPerm p) : responseTo T .papply r = ⟨applyPerm r.va p, 0, 0, 0, 0⟩ := by
  rw [responseTo_papply, hr, unpackPerm_packPerm, if_pos hp]

/-- The code operand read from a header's code byte is the header's code (R33). -/
theorem extract_header_code : ∀ h : Byte, (h &&& 0x1F).extractLsb' 0 5 = h.extractLsb' 0 5 := by decide

/-- The class operand read from a header's class byte is the header's class (R33). -/
theorem extract_header_class : ∀ h : Byte, (h >>> 5).extractLsb' 0 3 = h.extractLsb' 5 3 := by decide

/-- DINV with the class byte of a header restores with the header's class (R80, R78). -/
theorem responseTo_dinv_header (T : ThrTable) {r : Request} {hdr : Byte} (hr : r.bb = hdr >>> 5) :
    responseTo T .dinv r = ⟨(deltaInv T r.va (hdr.extractLsb' 5 3)).s, 0, 0, 0,
      if (deltaInv T r.va (hdr.extractLsb' 5 3)).wrap then 0x04 else 0x00⟩ := by
  rw [responseTo_dinv, hr, extract_header_class]

/-- PINV of the code byte of a header inverts the header's code (R80, R71). -/
theorem responseTo_pinv_header (T : ThrTable) {r : Request} {hdr : Byte} (hr : r.ba = hdr &&& 0x1F) :
    responseTo T .pinv r = ⟨⟨0, 0, 0, 0⟩, packPerm (permInverse (hdr.extractLsb' 0 5)), 0, 0,
      if codeValid (hdr.extractLsb' 0 5) then 0x00 else 0x01⟩ := by
  rw [responseTo_pinv, hr, extract_header_code]

/-- Settles O50: the two bytes of HUNPK are the header's fields again as the later operands, and what PINV answers is a permutation
even for an invalid code, so PAPPLY adds no error. -/
theorem decIsAComposition : Obligations.DecIsAComposition := by
  intro s hdr m hl
  obtain ⟨s1, hhunpk, hs1⟩ := exists_issue hl (rfl : s.thr = s.thr) .hunpk (r := { requestFor .hunpk with ba := hdr }) rfl
    (responseTo_hunpk _ _)
  obtain ⟨s2, hdinv, hs2⟩ := exists_issue hl hs1 .dinv (r := { requestFor .dinv with va := m, bb := hdr >>> 5 }) rfl
    (responseTo_dinv_header _ rfl)
  obtain ⟨s3, hpinv, hs3⟩ := exists_issue hl hs2 .pinv (r := { requestFor .pinv with ba := hdr &&& 0x1F }) rfl
    (responseTo_pinv_header _ rfl)
  obtain ⟨s4, hpapply, hs4⟩ := exists_issue hl hs3 .papply
    (r := { requestFor .papply with
      va := (deltaInv s.thr m (hdr.extractLsb' 5 3)).s, pa := packPerm (permInverse (hdr.extractLsb' 0 5)) }) rfl
    (responseTo_papply_packPerm _ (isPerm_permInverse _) rfl)
  obtain ⟨s5, hdec, -⟩ := exists_issue hl hs4 .dec (r := { requestFor .dec with ba := hdr, va := m }) rfl
    (responseTo_dec _ _)
  exact ⟨_, _, _, _, _, _, _, s1, s2, s3, s4, s5, hhunpk, hdinv, hpinv, hpapply, hdec⟩

/-! ### The headers of encoded blocks -/

/-- A permutation and its strictly ascending gather are what the sorter makes of the gather by the inverse (R57, R68). -/
theorem sortPerm_applyPerm_invertPerm {p : Perm} (hp : isPerm p = true) {u : Tuple} (h01 : u.e0 < u.e1) (h12 : u.e1 < u.e2)
    (h23 : u.e2 < u.e3) : sortPerm (applyPerm u (invertPerm p)) = (p, u) := by
  have hget : ∀ i : Index, (applyPerm u (invertPerm p)).get (p.get i) = u.get i := fun i => by
    rw [applyPerm_get, invertPerm_get hp]
  have hsort : sortPermIdx (applyPerm u (invertPerm p)) = p := by
    apply sortPermIdx_eq_of_strict hp
    · rwa [← Quad_get_zero p, ← Quad_get_one p, hget, hget]
    · rwa [← Quad_get_one p, ← Quad_get_two p, hget, hget]
    · rwa [← Quad_get_two p, ← Quad_get_three p, hget, hget]
  refine Prod.ext ((sortPerm_fst _).trans hsort) ?_
  rw [sortPerm_snd, hsort]
  exact Quad_ext_get fun i => by rw [applyPerm_get, hget]

/-- The four successive values from `x` up. -/
def successive (x : Word) : Tuple := ⟨x, x + 1, x + 2, x + 3⟩

/-- A tuple whose block has the header `h`: four values from the class's threshold up, in the order that the code's inverse gives. -/
def headerTuple (T : ThrTable) (h : Byte) : Tuple :=
  applyPerm (successive (thr T (hdrUnpack h).2)) (permInverse (hdrUnpack h).1)

theorem sortPerm_headerTuple {T : ThrTable} {h : Byte} (hv : codeValid (hdrUnpack h).1 = true)
    (hroom : (thr T (hdrUnpack h).2).toNat + 3 < 2 ^ 32) :
    sortPerm (headerTuple T h) = (permDecode (hdrUnpack h).1, successive (thr T (hdrUnpack h).2)) := by
  rw [headerTuple, permInverse_of_valid hv]
  refine sortPerm_applyPerm_invertPerm (isPerm_permDecode hv) ?_ ?_ ?_ <;> simp only [successive] <;> bv_omega

/-- With room for three values above the top threshold, every header with a valid code is that of some tuple's block (R88). -/
theorem encodeBlock_headerTuple {T : ThrTable} (hl : T.legal = true) (htop : (thr T 7).toNat + 3 < 2 ^ 32) {h : Byte}
    (hv : codeValid (hdrUnpack h).1 = true) : (encodeBlock T (headerTuple T h)).hdr = h := by
  have hle : thr T (hdrUnpack h).2 ≤ thr T 7 := (thr_le_thr_iff hl).2 (by bv_omega)
  rw [encodeBlock_eq, sortPerm_headerTuple hv (by bv_omega), permEncode_permDecode hv, successive, bestClass_thr hl,
    hdrPack_hdrUnpack]

/-- The code of a header byte is its value modulo 32 (R30). -/
theorem hdrUnpack_code_toNat (h : Byte) : (hdrUnpack h).1.toNat = h.toNat % 32 := by
  simp [hdrUnpack]

/-- The eight invalid codes (R61). -/
theorem codeValid_eq_false_iff_mem :
    ∀ code : OrderCode, codeValid code = false ↔ code.toNat ∈ [0, 1, 10, 11, 20, 21, 30, 31] := by decide

theorem hdrUnpack_ofNat_code (n : Nat) : (hdrUnpack (BitVec.ofNat 8 n)).1 = BitVec.ofNat 5 n := by
  apply BitVec.eq_of_toNat_eq
  rw [hdrUnpack_code_toNat, BitVec.toNat_ofNat, BitVec.toNat_ofNat, Nat.mod_mod_of_dvd n (by decide)]

/-- Each 32 successive numbers hold the 24 valid codes (R61). -/
theorem countP_codeValid_range (n : Nat) :
    (List.range (32 * n)).countP (fun h => codeValid (BitVec.ofNat 5 h)) = 24 * n := by
  have hperiod : ∀ a b : Nat, BitVec.ofNat 5 (32 * a + b) = BitVec.ofNat 5 b := fun a b => by
    apply BitVec.eq_of_toNat_eq
    rw [BitVec.toNat_ofNat, BitVec.toNat_ofNat, Nat.mul_add_mod]
  have hblock : (List.range 32).countP (fun h => codeValid (BitVec.ofNat 5 h)) = 24 := by decide
  induction n with
  | zero => rfl
  | succ n ih =>
    rw [Nat.mul_succ, List.range_add, List.countP_append, ih, List.countP_map]
    simp only [Function.comp_def, hperiod, hblock]
    exact (Nat.mul_succ 24 n).symm

/-- Settles O52: a block's code is a permutation's, the invalid codes are eight, each with eight classes, and NIB1 leaves room above its
top threshold. -/
theorem encodedHeadersAreWellFormed : Obligations.EncodedHeadersAreWellFormed := by
  refine ⟨fun s => ⟨_, exec_eq_answer .enc s, codeValid_encodeBlock s.thr s.req.va⟩, ?_, fun h => ?_,
    fun h hv => ⟨headerTuple Config.nib1 h, encodeBlock_headerTuple nib1_legal (by decide) hv⟩⟩
  · simp only [hdrUnpack_ofNat_code]
    exact countP_codeValid_range 8
  · rw [codeValid_eq_false_iff_mem, hdrUnpack_code_toNat]

end Sys2Proof.Machine

/-! PROOFS. Errors and their report (R91 to R93): every request is answered, no step faults, and only DEC reports two causes in one
response. -/

namespace Sys2Proof.Machine

/-! ### Every request is answered -/

/-- Settles O5: an operation, a step and an issued request all give the response function's value. -/
theorem everyRequestIsAnswered : Obligations.EveryRequestIsAnswered :=
  ⟨fun i s => ⟨_, exec_eq_answer i s⟩,
    fun s r hl => ⟨_, step_present hl r, State.answer_response? (s.present r) _, issue_eq hl r⟩⟩

/-! ### No step faults -/

/-- The twelve selectors of R54, written out. -/
theorem selectorEnumerated_iff_mem : ∀ sel : BitVec 4, selectorEnumerated sel = true ↔
    sel ∈ [0x1#4, 0x2#4, 0x3#4, 0x4#4, 0x6#4, 0x7#4, 0x8#4, 0x9#4, 0xB#4, 0xC#4, 0xD#4, 0xE#4] := by decide

/-- A step refuses an illegal table, runs an operation that answers, or waits: none of these is a fault (R93). -/
theorem step_ne_fault (s : State) (f : Fault) : step s ≠ .fault f := by
  cases hl : s.thr.legal with
  | false => simp [step_refused hl]
  | true =>
    by_cases hp : s.phase = .presented
    · simp [step_presented hl hp, exec_eq_answer]
    · simp [step_waiting hl hp]

/-- Settles O6: the sorter's two indices differ, so its selector is one of the twelve and the guarded operations answer like the
others; no operation has a cause for `INVAR`. -/
theorem invariantViolationUnreachable : Obligations.InvariantViolationUnreachable :=
  ⟨fun t => ⟨sortIdx_ne t, (selectorEnumerated_iff_mem _).1 (selectorEnumerated_of_ne (sortIdx_ne t))⟩, step_ne_fault,
    fun i s => ⟨_, exec_eq_answer i s, statusOf_responseTo s.thr i s.req .invar⟩⟩

/-! ### Simultaneous causes -/

/-- The one bit that an operation other than DEC may raise, by R89's column of operations; for the operations that raise nothing it is
never raised. -/
def soleBit : Instr → StatusBit
  | .papply | .penc => .permErr
  | .dfwd | .dinv => .wrap
  | .reservedD | .reservedE | .reservedF => .illop
  | _ => .codeErr

theorem soleBit_ne_invar (i : Instr) : soleBit i ≠ .invar := by cases i <;> decide

/-- R89's lists of operations meet in DEC alone, so the status word of any other operation is its one bit, raised or not (R92). -/
theorem responseTo_st_of_ne_dec {i : Instr} (hi : i ≠ .dec) (T : ThrTable) (r : Request) :
    (responseTo T i r).st = raise (soleBit i) (causeOf T i r (soleBit i)) 0 := by
  rw [responseTo_st]
  cases i with
  | dec => exact absurd rfl hi
  | _ => simp [causeOf, soleBit]

/-- One bit other than `INVAR`, raised or not over 0, is one of the single-bit words or 0 (R14). -/
theorem raise_zero_mem {b : StatusBit} (hb : b ≠ .invar) (cond : Bool) :
    raise b cond 0 ∈ [0x00#8, 0x01#8, 0x02#8, 0x04#8, 0x08#8] := by
  cases b with
  | invar => exact absurd rfl hb
  | _ => cases cond <;> decide

/-- DEC's two bits over 0: both together are `0x05`, and otherwise at most one is set (R92). -/
theorem raise_wrap_codeErr_mem_or_eq : ∀ w c : Bool,
    raise .wrap w (raise .codeErr c 0) ∈ [0x00#8, 0x01#8, 0x02#8, 0x04#8, 0x08#8] ∨
      raise .wrap w (raise .codeErr c 0) = 0x05#8 := by decide

/-- Settles O16: an operation other than DEC raises its own bit alone, DEC raises two, and V189 meets both causes of DEC. -/
theorem onlyDecReportsTwoCauses : Obligations.OnlyDecReportsTwoCauses := by
  refine ⟨fun i s => ⟨_, exec_eq_answer i s, ?_⟩, ?_⟩
  · by_cases hi : i = .dec
    · subst hi
      rw [responseTo_dec_st]
      exact (raise_wrap_codeErr_mem_or_eq _ _).imp_right fun h => ⟨rfl, h⟩
    · rw [responseTo_st_of_ne_dec hi]
      exact .inl (raise_zero_mem (soleBit_ne_invar i) _)
  · rw [answerOf_eq nib1_legal]
    decide

end Sys2Proof.Machine
